-- ==== Sys2Proof/Word.lean ====
section
/-!
DEFINITION. The word types of the block: the 32-bit register and address word, the 8-bit sample and the
16-bit half-word of the lane unit (spec 00_scope R6, 10_state R20).
-/

namespace Sys2Proof

/-- A register word, and a byte address of the data space (REG_BITS = ADDR_BITS = 32, R6). -/
abbrev Word := BitVec 32

/-- One unsigned sample, one byte of memory (SAMPLE_BITS = 8, R6). -/
abbrev Byte := BitVec 8

/-- A coefficient, or one element of a half-word lane (COEF_BITS = 16, R6; R10). -/
abbrev Half := BitVec 16

end Sys2Proof
end

