-- ==== Sys2Proof/Syntax.lean ====
section
/-!
DEFINITION. The instructions: one constructor per row of spec/opcode_table.json, that is the 34 command
words a host writes to CMD (format CMD, R110) and the 16 operation selects the sequencer presents to the
lane arithmetic unit (format LOP, R113). Field values are names, never raw bits.
-/

namespace Sys2Proof

/-- `ITYPE` (R102): the interpolation type of a RESAMPLE. -/
inductive IType where
  | point | linear | cubic
deriving DecidableEq, Repr

/-- `SITING` (R103): the chroma siting code; it selects a row pattern or a tap set and has no arithmetic. -/
inductive Siting where
  | s0 | s1 | s2 | s3
deriving DecidableEq, Repr

/-- `INTERLACED` (R104): the scan structure. -/
inductive Scan where
  | progressive | interlaced
deriving DecidableEq, Repr

/-- `LANEW` (R105): the lane width of a command, 16 or 32 bytes. -/
inductive LaneWidth where
  | w16 | w32
deriving DecidableEq, Repr

/-- `BU` (R106): the row order; bottom-up mirrors both views before the kernel runs (R73). -/
inductive RowOrder where
  | topDown | bottomUp
deriving DecidableEq, Repr

/-- The instruction set CRLP-1 and the lane operation selects. A RESAMPLE constructor is named by its
interpolation type, siting and scan (P progressive, I interlaced), as its mnemonic is (R114). -/
inductive Instr where
  /-- `nop` (R255) -/
  | nop
  /-- `resample.point.s0.p` (R231) -/
  | resamplePointS0P (lw : LaneWidth) (ro : RowOrder)
  /-- `resample.point.s1.p` (R232) -/
  | resamplePointS1P (lw : LaneWidth) (ro : RowOrder)
  /-- `resample.point.s2.p` (R233) -/
  | resamplePointS2P (lw : LaneWidth) (ro : RowOrder)
  /-- `resample.point.s3.p` (R234) -/
  | resamplePointS3P (lw : LaneWidth) (ro : RowOrder)
  /-- `resample.point.s0.i` (R235) -/
  | resamplePointS0I (lw : LaneWidth) (ro : RowOrder)
  /-- `resample.point.s1.i` (R236) -/
  | resamplePointS1I (lw : LaneWidth) (ro : RowOrder)
  /-- `resample.point.s2.i` (R237) -/
  | resamplePointS2I (lw : LaneWidth) (ro : RowOrder)
  /-- `resample.point.s3.i` (R238) -/
  | resamplePointS3I (lw : LaneWidth) (ro : RowOrder)
  /-- `resample.linear.s0.p` (R239) -/
  | resampleLinearS0P (lw : LaneWidth) (ro : RowOrder)
  /-- `resample.linear.s1.p` (R240) -/
  | resampleLinearS1P (lw : LaneWidth) (ro : RowOrder)
  /-- `resample.linear.s2.p` (R241) -/
  | resampleLinearS2P (lw : LaneWidth) (ro : RowOrder)
  /-- `resample.linear.s3.p` (R242) -/
  | resampleLinearS3P (lw : LaneWidth) (ro : RowOrder)
  /-- `resample.linear.s0.i` (R243) -/
  | resampleLinearS0I (lw : LaneWidth) (ro : RowOrder)
  /-- `resample.linear.s1.i` (R244) -/
  | resampleLinearS1I (lw : LaneWidth) (ro : RowOrder)
  /-- `resample.linear.s2.i` (R245) -/
  | resampleLinearS2I (lw : LaneWidth) (ro : RowOrder)
  /-- `resample.linear.s3.i` (R246) -/
  | resampleLinearS3I (lw : LaneWidth) (ro : RowOrder)
  /-- `resample.cubic.s0.p` (R247) -/
  | resampleCubicS0P (lw : LaneWidth) (ro : RowOrder)
  /-- `resample.cubic.s1.p` (R248) -/
  | resampleCubicS1P (lw : LaneWidth) (ro : RowOrder)
  /-- `resample.cubic.s2.p` (R249) -/
  | resampleCubicS2P (lw : LaneWidth) (ro : RowOrder)
  /-- `resample.cubic.s3.p` (R250) -/
  | resampleCubicS3P (lw : LaneWidth) (ro : RowOrder)
  /-- `resample.cubic.s0.i` (R251) -/
  | resampleCubicS0I (lw : LaneWidth) (ro : RowOrder)
  /-- `resample.cubic.s1.i` (R252) -/
  | resampleCubicS1I (lw : LaneWidth) (ro : RowOrder)
  /-- `resample.cubic.s2.i` (R253) -/
  | resampleCubicS2I (lw : LaneWidth) (ro : RowOrder)
  /-- `resample.cubic.s3.i` (R254) -/
  | resampleCubicS3I (lw : LaneWidth) (ro : RowOrder)
  /-- `hshift` (R280) -/
  | hshift (lw : LaneWidth) (ro : RowOrder)
  /-- `tapgen.s0.p` (R134) -/
  | tapgenS0P
  /-- `tapgen.s1.p` (R134) -/
  | tapgenS1P
  /-- `tapgen.s2.p` (R134) -/
  | tapgenS2P
  /-- `tapgen.s3.p` (R134) -/
  | tapgenS3P
  /-- `tapgen.s0.i` (R134) -/
  | tapgenS0I
  /-- `tapgen.s1.i` (R134) -/
  | tapgenS1I
  /-- `tapgen.s2.i` (R134) -/
  | tapgenS2I
  /-- `tapgen.s3.i` (R134) -/
  | tapgenS3I
  /-- `LDL` (R150) -/
  | ldl
  /-- `STL` (R151) -/
  | stl
  /-- `AVG2` (R152) -/
  | avg2
  /-- `AVG4` (R153) -/
  | avg4
  /-- `WIDENLO` (R154) -/
  | widenLo
  /-- `WIDENHI` (R155) -/
  | widenHi
  /-- `ILV16LO` (R156) -/
  | ilv16Lo
  /-- `ILV16HI` (R157) -/
  | ilv16Hi
  /-- `ADD16` (R158) -/
  | add16
  /-- `ADD32` (R159) -/
  | add32
  /-- `MADD` (R160) -/
  | madd
  /-- `SRA32` (R161), `imm` the shift amount -/
  | sra32 (imm : Nat)
  /-- `PACKS32` (R162) -/
  | packs32
  /-- `PACKUS16` (R163) -/
  | packus16
  /-- `BCAST` (R164) -/
  | bcast
  /-- `SHIFTIN` (R165) -/
  | shiftIn
deriving DecidableEq, Repr

end Sys2Proof
end

