-- ==== Sys2Proof/WellFormed.lean ====
section
/-!
DEFINITION. Which terms of `Instr` are instructions: the one operand whose type admits more than its
encoding is the shift amount of SRA32, 0 to 31 (R112, R161). Every other operand is a name of a field value.
-/

namespace Sys2Proof

/-- The check of an instruction's operands against their encoding (R112: `IMM` is 5 bits). -/
def Instr.wellFormed : Instr → Bool
  | .sra32 imm => decide (imm < 32)
  | _ => true

end Sys2Proof
end

