-- ==== Sys2Proof/Decode.lean ====
section
/-!
DEFINITION. The decoder of the two encoding spaces (R100 to R113), total on every word and rejecting by
name, and after it the encoder, written from the same tables.
-/

namespace Sys2Proof

/-- Why a word is no instruction. The first three are the causes of R291 that a command word can have on
its own; the last is a lane select that never occurs (R113). -/
inductive Reject where
  /-- cause 1, RSVD_OP: `OP` is 4 to 15 -/
  | rsvdOp
  /-- cause 2, MBZ: a must-be-zero bit is 1 (R107) -/
  | mbz
  /-- cause 3, RSVD_ITYPE: RESAMPLE with `ITYPE` = 3 -/
  | rsvdItype
  /-- a lane select with `IMM` not 0 and `LOP` not 11 (R113) -/
  | rsvdSelect
deriving DecidableEq, Repr

/-- A word of one of the two encoding spaces: a command word (R100) or a 9-bit lane select (R112). -/
inductive Code where
  | cmd (w : Word)
  | lop (w : BitVec 9)
deriving DecidableEq, Repr

/-- `ITYPE` 0 to 2 (R102); the value 3 has been rejected before this is asked. -/
def itypeOf (v : BitVec 2) : IType :=
  if v = 0#2 then .point else if v = 1#2 then .linear else .cubic

/-- `SITING` (R103). -/
def sitingOf (v : BitVec 2) : Siting :=
  if v = 0#2 then .s0 else if v = 1#2 then .s1 else if v = 2#2 then .s2 else .s3

/-- `INTERLACED` (R104). -/
def scanOf (v : BitVec 1) : Scan := if v = 0#1 then .progressive else .interlaced

/-- `LANEW` (R105). -/
def laneWidthOf (v : BitVec 1) : LaneWidth := if v = 0#1 then .w16 else .w32

/-- `BU` (R106). -/
def rowOrderOf (v : BitVec 1) : RowOrder := if v = 0#1 then .topDown else .bottomUp

/-- The RESAMPLE instruction of a dispatch key (R110). -/
def resampleInstr : IType → Siting → Scan → LaneWidth → RowOrder → Instr
  | .point, .s0, .progressive => .resamplePointS0P
  | .point, .s1, .progressive => .resamplePointS1P
  | .point, .s2, .progressive => .resamplePointS2P
  | .point, .s3, .progressive => .resamplePointS3P
  | .point, .s0, .interlaced => .resamplePointS0I
  | .point, .s1, .interlaced => .resamplePointS1I
  | .point, .s2, .interlaced => .resamplePointS2I
  | .point, .s3, .interlaced => .resamplePointS3I
  | .linear, .s0, .progressive => .resampleLinearS0P
  | .linear, .s1, .progressive => .resampleLinearS1P
  | .linear, .s2, .progressive => .resampleLinearS2P
  | .linear, .s3, .progressive => .resampleLinearS3P
  | .linear, .s0, .interlaced => .resampleLinearS0I
  | .linear, .s1, .interlaced => .resampleLinearS1I
  | .linear, .s2, .interlaced => .resampleLinearS2I
  | .linear, .s3, .interlaced => .resampleLinearS3I
  | .cubic, .s0, .progressive => .resampleCubicS0P
  | .cubic, .s1, .progressive => .resampleCubicS1P
  | .cubic, .s2, .progressive => .resampleCubicS2P
  | .cubic, .s3, .progressive => .resampleCubicS3P
  | .cubic, .s0, .interlaced => .resampleCubicS0I
  | .cubic, .s1, .interlaced => .resampleCubicS1I
  | .cubic, .s2, .interlaced => .resampleCubicS2I
  | .cubic, .s3, .interlaced => .resampleCubicS3I

/-- The TAPGEN instruction of a siting and a scan (R110). -/
def tapgenInstr : Siting → Scan → Instr
  | .s0, .progressive => .tapgenS0P
  | .s1, .progressive => .tapgenS1P
  | .s2, .progressive => .tapgenS2P
  | .s3, .progressive => .tapgenS3P
  | .s0, .interlaced => .tapgenS0I
  | .s1, .interlaced => .tapgenS1I
  | .s2, .interlaced => .tapgenS2I
  | .s3, .interlaced => .tapgenS3I

/-- Decoding a command word (R108), the checks in the order written there. The one check that reads
registers, cause 4, is made where TAPGEN is accepted (`tapgen` in Machine/Tapgen.lean). -/
def decodeCommand (w : Word) : Except Reject Instr :=
  let op := w.extractLsb' 0 4
  let it := w.extractLsb' 4 2
  let st := w.extractLsb' 6 2
  let il := w.extractLsb' 8 1
  let lw := w.extractLsb' 9 1
  let bu := w.extractLsb' 10 1
  if 4 ≤ op.toNat then .error .rsvdOp
  else if w.extractLsb' 11 21 ≠ 0#21 then .error .mbz
  else if op = 0#4 ∧ w.extractLsb' 4 7 ≠ 0#7 then .error .mbz
  else if op = 2#4 ∧ (it ≠ 0#2 ∨ st ≠ 0#2 ∨ il ≠ 0#1) then .error .mbz
  else if op = 3#4 ∧ (it ≠ 0#2 ∨ lw ≠ 0#1 ∨ bu ≠ 0#1) then .error .mbz
  else if op = 1#4 ∧ it = 3#2 then .error .rsvdItype
  else if op = 0#4 then .ok .nop
  else if op = 1#4 then
    .ok (resampleInstr (itypeOf it) (sitingOf st) (scanOf il) (laneWidthOf lw) (rowOrderOf bu))
  else if op = 2#4 then .ok (.hshift (laneWidthOf lw) (rowOrderOf bu))
  else .ok (tapgenInstr (sitingOf st) (scanOf il))

/-- The lane operation of a `LOP` code (R113); `IMM` is the shift amount of SRA32. -/
def lopInstr (lop : BitVec 4) (imm : BitVec 5) : Instr :=
  match lop.toNat with
  | 0 => .ldl
  | 1 => .stl
  | 2 => .avg2
  | 3 => .avg4
  | 4 => .widenLo
  | 5 => .widenHi
  | 6 => .ilv16Lo
  | 7 => .ilv16Hi
  | 8 => .add16
  | 9 => .add32
  | 10 => .madd
  | 11 => .sra32 imm.toNat
  | 12 => .packs32
  | 13 => .packus16
  | 14 => .bcast
  | _ => .shiftIn

/-- Decoding a lane select (R112, R113). -/
def decodeLop (w : BitVec 9) : Except Reject Instr :=
  let lop := w.extractLsb' 0 4
  let imm := w.extractLsb' 4 5
  if lop ≠ 11#4 ∧ imm ≠ 0#5 then .error .rsvdSelect else .ok (lopInstr lop imm)

/-- The decoder of both spaces. -/
def decode : Code → Except Reject Instr
  | .cmd w => decodeCommand w
  | .lop w => decodeLop w

/-- The instruction of a row of spec/opcode_table.json whose bits are `w`. A lane select has nine bits and
its container of two bytes no more (log entry 16); a command word has 32. -/
def decodeTableWord (nbits w : Nat) : Option Instr :=
  if nbits ≤ 16 then (decode (.lop (BitVec.ofNat 9 w))).toOption
  else (decode (.cmd (BitVec.ofNat 32 w))).toOption

/-! ### The encoder -/

/-- The code of an interpolation type (R102). -/
def IType.code : IType → Nat
  | .point => 0 | .linear => 1 | .cubic => 2

/-- The code of a siting (R103). -/
def Siting.code : Siting → Nat
  | .s0 => 0 | .s1 => 1 | .s2 => 2 | .s3 => 3

/-- The code of a scan structure (R104). -/
def Scan.code : Scan → Nat
  | .progressive => 0 | .interlaced => 1

/-- The code of a lane width (R105). -/
def LaneWidth.code : LaneWidth → Nat
  | .w16 => 0 | .w32 => 1

/-- The code of a row order (R106). -/
def RowOrder.code : RowOrder → Nat
  | .topDown => 0 | .bottomUp => 1

/-- A command word from its fields (R100). -/
def commandWord (op it st il lw bu : Nat) : Word :=
  BitVec.ofNat 32 (op + it * 16 + st * 64 + il * 256 + lw * 512 + bu * 1024)

/-- The word of a RESAMPLE (R110, `OP` = 1). -/
def resampleWord (it : IType) (st : Siting) (sc : Scan) (lw : LaneWidth) (ro : RowOrder) : Word :=
  commandWord 1 it.code st.code sc.code lw.code ro.code

/-- The word of an HSHIFT (R110, `OP` = 2). -/
def hshiftWord (lw : LaneWidth) (ro : RowOrder) : Word := commandWord 2 0 0 0 lw.code ro.code

/-- The word of a TAPGEN (R110, `OP` = 3). -/
def tapgenWord (st : Siting) (sc : Scan) : Word := commandWord 3 0 st.code sc.code 0 0

/-- A lane select from its fields (R112). -/
def selectWord (lop imm : Nat) : BitVec 9 := BitVec.ofNat 9 (lop + imm * 16)

/-- The encoder: the word of an instruction (R110, R113). -/
def encode : Instr → Code
  | .nop => .cmd (commandWord 0 0 0 0 0 0)
  | .resamplePointS0P lw ro => .cmd (resampleWord .point .s0 .progressive lw ro)
  | .resamplePointS1P lw ro => .cmd (resampleWord .point .s1 .progressive lw ro)
  | .resamplePointS2P lw ro => .cmd (resampleWord .point .s2 .progressive lw ro)
  | .resamplePointS3P lw ro => .cmd (resampleWord .point .s3 .progressive lw ro)
  | .resamplePointS0I lw ro => .cmd (resampleWord .point .s0 .interlaced lw ro)
  | .resamplePointS1I lw ro => .cmd (resampleWord .point .s1 .interlaced lw ro)
  | .resamplePointS2I lw ro => .cmd (resampleWord .point .s2 .interlaced lw ro)
  | .resamplePointS3I lw ro => .cmd (resampleWord .point .s3 .interlaced lw ro)
  | .resampleLinearS0P lw ro => .cmd (resampleWord .linear .s0 .progressive lw ro)
  | .resampleLinearS1P lw ro => .cmd (resampleWord .linear .s1 .progressive lw ro)
  | .resampleLinearS2P lw ro => .cmd (resampleWord .linear .s2 .progressive lw ro)
  | .resampleLinearS3P lw ro => .cmd (resampleWord .linear .s3 .progressive lw ro)
  | .resampleLinearS0I lw ro => .cmd (resampleWord .linear .s0 .interlaced lw ro)
  | .resampleLinearS1I lw ro => .cmd (resampleWord .linear .s1 .interlaced lw ro)
  | .resampleLinearS2I lw ro => .cmd (resampleWord .linear .s2 .interlaced lw ro)
  | .resampleLinearS3I lw ro => .cmd (resampleWord .linear .s3 .interlaced lw ro)
  | .resampleCubicS0P lw ro => .cmd (resampleWord .cubic .s0 .progressive lw ro)
  | .resampleCubicS1P lw ro => .cmd (resampleWord .cubic .s1 .progressive lw ro)
  | .resampleCubicS2P lw ro => .cmd (resampleWord .cubic .s2 .progressive lw ro)
  | .resampleCubicS3P lw ro => .cmd (resampleWord .cubic .s3 .progressive lw ro)
  | .resampleCubicS0I lw ro => .cmd (resampleWord .cubic .s0 .interlaced lw ro)
  | .resampleCubicS1I lw ro => .cmd (resampleWord .cubic .s1 .interlaced lw ro)
  | .resampleCubicS2I lw ro => .cmd (resampleWord .cubic .s2 .interlaced lw ro)
  | .resampleCubicS3I lw ro => .cmd (resampleWord .cubic .s3 .interlaced lw ro)
  | .hshift lw ro => .cmd (hshiftWord lw ro)
  | .tapgenS0P => .cmd (tapgenWord .s0 .progressive)
  | .tapgenS1P => .cmd (tapgenWord .s1 .progressive)
  | .tapgenS2P => .cmd (tapgenWord .s2 .progressive)
  | .tapgenS3P => .cmd (tapgenWord .s3 .progressive)
  | .tapgenS0I => .cmd (tapgenWord .s0 .interlaced)
  | .tapgenS1I => .cmd (tapgenWord .s1 .interlaced)
  | .tapgenS2I => .cmd (tapgenWord .s2 .interlaced)
  | .tapgenS3I => .cmd (tapgenWord .s3 .interlaced)
  | .ldl => .lop (selectWord 0 0)
  | .stl => .lop (selectWord 1 0)
  | .avg2 => .lop (selectWord 2 0)
  | .avg4 => .lop (selectWord 3 0)
  | .widenLo => .lop (selectWord 4 0)
  | .widenHi => .lop (selectWord 5 0)
  | .ilv16Lo => .lop (selectWord 6 0)
  | .ilv16Hi => .lop (selectWord 7 0)
  | .add16 => .lop (selectWord 8 0)
  | .add32 => .lop (selectWord 9 0)
  | .madd => .lop (selectWord 10 0)
  | .sra32 imm => .lop (selectWord 11 imm)
  | .packs32 => .lop (selectWord 12 0)
  | .packus16 => .lop (selectWord 13 0)
  | .bcast => .lop (selectWord 14 0)
  | .shiftIn => .lop (selectWord 15 0)

end Sys2Proof
end

