-- ==== Sys2Proof/Config.lean ====
section
/-!
DEFINITION. What an implementation or a platform fixes, and the free values: constants without a body,
so that nothing can be proved about the values the spec leaves open (spec 93_implementation_defined).
-/

namespace Sys2Proof.Config

/-- The free value: a word nobody knows, a fresh one for each value of the counter `State.free`
(93 U3, U5, U6, U8; log entries 5, 6 and 9). -/
opaque freeWord : Nat → Word

/-- REG_BASE, the bus address of register index 0: a platform parameter without a value (R6, R20, D2). -/
opaque regBase : Word

/-- N_INSTANCES: this model is one instance, as R297 allows (log entry 12). -/
def instances : Nat := 1

end Sys2Proof.Config
end

