-- ==== Sys2Proof/Machine/State.lean ====
section
/-!
DEFINITION. The state of one CRLP instance as plain data, its faults and refusals, and its value after
reset (spec 10_state). Fields marked MODEL are the model's own and not the spec's.
-/

namespace Sys2Proof.Machine

/-- The stored part of `STATUS` (R28). TOPCLAMP and BOTCLAMP are live and computed (Flags.lean). -/
structure Status where
  busy : Bool
  done : Bool
  cfgerr : Bool
  ovr : Bool
  cause : BitVec 4
deriving DecidableEq, Repr

/-- The six operand registers of RESAMPLE and HSHIFT, indices 4 to 9 (R21 to R26). -/
structure Operands where
  srcBase : Word
  srcStride : Word
  dstBase : Word
  dstStride : Word
  width : BitVec 16
  height : BitVec 16
deriving DecidableEq, Repr

/-- The filter shape registers, indices 12 to 15 (R33). -/
structure Shape where
  fbLo : Word
  fbHi : Word
  fcLo : Word
  fcHi : Word
deriving DecidableEq, Repr

/-- The coefficient registers C0 to C7, indices 16 to 23 (R32): bits 15:0 of each. -/
structure Coefs where
  c0 : Half
  c1 : Half
  c2 : Half
  c3 : Half
  c4 : Half
  c5 : Half
  c6 : Half
  c7 : Half
deriving DecidableEq, Repr

/-- `POS`, the sequencer position (R27): the group and the lane column the next step processes. -/
structure Pos where
  group : BitVec 16
  col : BitVec 12
deriving DecidableEq, Repr

/-- One lane store issued and not yet performed, an entry of `PENDING` (R35, R151). -/
structure LaneStore where
  addr : Word
  data : List Byte
deriving DecidableEq, Repr

/-- An access of the block's memory port (R79 d): a source is loaded, a destination is stored to. -/
inductive Access where
  | load | store
deriving DecidableEq, Repr

/-- What the platform lets the block do with a range of bytes it does not map whole (R79 d, R85). -/
inductive Reach where
  /-- not mapped at all -/
  | unmapped
  /-- mapped for loads of the block only -/
  | readOnly
  /-- mapped for stores of the block only -/
  | writeOnly
deriving DecidableEq, Repr

/-- A range of byte addresses the platform does not map for every access of the block (R79 d, R85, 93 U7). -/
structure Span where
  base : Nat
  size : Nat
  reach : Reach
deriving DecidableEq, Repr

/-- MODEL: the operand ports and the result port of the lane arithmetic unit, for a lane operation that is
presented on its own (R112). A port holds a lane of 32 bytes; a 16-byte lane is its low half (R166). The
spec keeps no lane register between steps (R34; log entry 15). -/
structure LaneUnit where
  addr : Word
  a : BitVec 256
  b : BitVec 256
  c : BitVec 256
  d : BitVec 256
  p0 : Half
  p1 : Half
  cy : Byte
  result : BitVec 256
deriving DecidableEq, Repr

/-- MODEL: what happens next, an access of the host or the turn of another agent (R7; log entry 4). -/
inductive Event where
  /-- the host writes register `index` -/
  | write (index : BitVec 6) (value : Word)
  /-- the host reads register `index` -/
  | read (index : BitVec 6)
  /-- the host stores one byte to the data memory -/
  | store (address : Word) (value : Byte)
  /-- the host loads one byte of the data memory -/
  | load (address : Word)
  /-- the sequencer takes one step -/
  | sequencer
  /-- the memory port performs the pending store at this place of `PENDING` (R82) -/
  | perform (k : Nat)
  /-- the reset input is asserted and released (R320, R322) -/
  | reset
  /-- a select word is presented to the lane unit (R112) -/
  | laneSelect (select : BitVec 9)
  /-- the ports of the lane unit are driven -/
  | laneDrive (ports : LaneUnit)
deriving DecidableEq, Repr

/-- Why the machine stops with a fault. There is no reason: CFGERR is a next state (R293), a race is not detected
(R86), and the memory port has no error response (R301). -/
inductive Fault where
deriving DecidableEq, Repr

/-- Why the model gives a step no meaning. -/
inductive Refusal where
  /-- Raised only by an arm of `exec` that has no meaning yet; there is none. Safe. -/
  | notModelled (mnemonic : String)
  /-- P1 of R298 broken: the width is below one lane or no multiple of it. Raised by a step of RESAMPLE or
  HSHIFT. Safe: R298 says that a model refuses (log entry 7). -/
  | badWidth
  /-- P2 of R298 broken: the height is below 4 or no multiple of 4. Raised and safe as `badWidth`. -/
  | badHeight
  /-- P3 of R298 broken: a base or stride is no multiple of the lane width (R78). Raised and safe as
  `badWidth`. -/
  | misalignedPlane
  /-- P4 of R298 broken: the magnitude of a stride is below the width. Raised and safe as `badWidth`. -/
  | shortStride
  /-- P5 of R298 broken: a region wraps past an end of the address space. Raised and safe as `badWidth`. -/
  | regionWraps
  /-- P6 of R298 broken: the source and destination regions meet. Raised and safe as `badWidth`. -/
  | planesOverlap
  /-- An LDL or STL presented with an address that is no multiple of the lane width (R78, R150, R151): what
  the port does is not in the source. Safe (log entry 17). -/
  | misalignedLane
  /-- A lane select that never occurs (R113) was presented. Safe (log entry 16). -/
  | reservedSelect
  /-- The host accesses a byte the platform does not map at all (R85): the platform's affair. Safe (log entry 8). -/
  | platformUnmapped
  /-- `BUSY` is 1 and `LAST` is no command word, in a state that no run reaches (R30). Safe (log entry 20). -/
  | corruptLast
deriving DecidableEq, Repr

/-- The state of the machine. -/
structure State where
  /-- `STATUS` (R28) -/
  status : Status
  /-- `CTRL.IE` (R29) -/
  ie : Bool
  /-- `LAST`, the last accepted command word (R36) -/
  last : Word
  /-- indices 4 to 9 -/
  ops : Operands
  /-- indices 12 to 15 -/
  shape : Shape
  /-- indices 16 to 23 -/
  coefs : Coefs
  /-- `POS` (R27) -/
  pos : Pos
  /-- `CARRY` (R35 a) -/
  carry : Byte
  /-- `PENDING` (R35 b), oldest first -/
  pending : List LaneStore
  /-- the data memory (R70): cells in canonical form -/
  mem : List Host.Cell
  /-- the platform's map of the data space for the block, by what it leaves out (R85, R79 d) -/
  limits : List Span
  /-- the indices of the registers that nothing has written since reset (R42) -/
  unwritten : List Nat
  /-- MODEL: the bytes of the planes of the command in progress that the host has stored to since its acceptance
  (R86, 93 U6; log entry 9) -/
  raced : List Word
  /-- MODEL: the ports of the lane unit -/
  lane : LaneUnit
  /-- MODEL: the accesses and turns to come, first one first; when there is none the sequencer steps -/
  events : List Event
  /-- MODEL: the value the latest read or load of the host returned -/
  hostData : Word
  /-- MODEL: how many free values have been drawn -/
  free : Nat
deriving DecidableEq, Repr

/-- The registers whose reset value R41 leaves unspecified: the operands, the shape and the coefficients. -/
def unspecifiedAtReset : List Nat := [4, 5, 6, 7, 8, 9, 12, 13, 14, 15, 16, 17, 18, 19, 20, 21, 22, 23]

/-- The state right after reset (R41, R320). Where R41 says "unspecified" the register holds 0, and the
memory lists nothing (log entries 1 and 2). -/
def State.reset : State where
  status := { busy := false, done := false, cfgerr := false, ovr := false, cause := 0#4 }
  ie := false
  last := 0#32
  ops := { srcBase := 0#32, srcStride := 0#32, dstBase := 0#32, dstStride := 0#32, width := 0#16, height := 0#16 }
  shape := { fbLo := 0#32, fbHi := 0#32, fcLo := 0#32, fcHi := 0#32 }
  coefs := { c0 := 0#16, c1 := 0#16, c2 := 0#16, c3 := 0#16, c4 := 0#16, c5 := 0#16, c6 := 0#16, c7 := 0#16 }
  pos := { group := 0#16, col := 0#12 }
  carry := 0#8
  pending := []
  mem := []
  limits := []
  unwritten := unspecifiedAtReset
  raced := []
  lane :=
    { addr := 0#32, a := 0#256, b := 0#256, c := 0#256, d := 0#256, p0 := 0#16, p1 := 0#16, cy := 0#8, result := 0#256 }
  events := []
  hostData := 0#32
  free := 0

end Sys2Proof.Machine
end

