-- ==== Sys2Proof/Machine/Ops.lean ====
section
/-!
DEFINITION. The named operations over memory, registers and the sequencer's state: byte and lane accesses,
PENDING, the register file, acceptance and completion of a command, and the one exception-like event,
CFGERR, with its acknowledgement beside it (spec 10_state, 20_memory, 60_exceptions, 70_reset).
-/

namespace Sys2Proof.Machine

/-! ### Data memory (R70) -/

/-- What a byte that no cell lists reads as (DESIGN CHOICE, log entry 1: R41 says reset does not touch memory). -/
def unlistedByte : Byte := 0#8

/-- The byte at an address. -/
def readByte : List Host.Cell → Nat → Byte
  | [], _ => unlistedByte
  | (k, b) :: m, a => if k = a then b else readByte m a

/-- Writing one byte, keeping the canonical form: no cell holds what an unlisted byte reads as. -/
def writeByte : List Host.Cell → Nat → Byte → List Host.Cell
  | [], a, v => if v = unlistedByte then [] else [(a, v)]
  | (k, b) :: m, a, v =>
    if a < k then (if v = unlistedByte then (k, b) :: m else (a, v) :: (k, b) :: m)
    else if a = k then (if v = unlistedByte then m else (a, v) :: m)
    else (k, b) :: writeByte m a v

/-- The canonical form from an address on: addresses rise, lie below 2^32, and no cell is redundant. -/
def memoryWfFrom : Nat → List Host.Cell → Bool
  | _, [] => true
  | lo, (k, b) :: m => decide (lo ≤ k) && decide (k < 2 ^ 32) && decide (b ≠ unlistedByte) && memoryWfFrom (k + 1) m

/-- The canonical form of the data memory. -/
def Memory.wf (m : List Host.Cell) : Bool := memoryWfFrom 0 m

/-- `MemRead(A, n)` (R9, R74): element i is the byte at `u32(A + i)`. -/
def readLane (m : List Host.Cell) (addr : Word) (n : Nat) : List Byte :=
  (List.range n).map fun i => readByte m (addr + BitVec.ofNat 32 i).toNat

/-- `MemWrite(A, n, v)` (R9, R74): element 0 to the lowest address. -/
def writeLane (m : List Host.Cell) (addr : Word) : List Byte → List Host.Cell
  | [] => m
  | b :: bs => writeLane (writeByte m addr.toNat b) (addr + 1#32) bs

/-- Whether a range lets the block make an access (R79 d). -/
def Reach.allows : Reach → Access → Bool
  | .unmapped, _ => false
  | .readOnly, acc => decide (acc = .load)
  | .writeOnly, acc => decide (acc = .store)

/-- Whether a byte address lies in a range. -/
def Span.holds (sp : Span) (a : Word) : Bool :=
  decide (sp.base ≤ a.toNat) && decide (a.toNat < sp.base + sp.size)

/-- Whether the platform lets the block make an access to a byte: readable for a source, writable for a
destination (R79 d, R85). -/
def byteAllows (limits : List Span) (acc : Access) (a : Word) : Bool :=
  limits.all fun sp => !sp.holds a || sp.reach.allows acc

/-- Whether a byte address is mapped at all, the host's own condition (R85). -/
def mappedByte (limits : List Span) (a : Word) : Bool :=
  limits.all fun sp => !sp.holds a || decide (sp.reach ≠ .unmapped)

/-- Whether the memory port admits an access of `n` bytes (R301: it is served or never admitted). -/
def State.admits (s : State) (acc : Access) (addr : Word) (n : Nat) : Bool :=
  (List.range n).all fun i => byteAllows s.limits acc (addr + BitVec.ofNat 32 i)

/-! ### PENDING (R35 b, R82) -/

/-- STL (R151): the stores join PENDING and wait there. -/
def State.issue (s : State) (stores : List LaneStore) : State := { s with pending := s.pending ++ stores }

/-- The memory after some lane stores are performed, whole and in this order. -/
def performStores (m : List Host.Cell) (stores : List LaneStore) : List Host.Cell :=
  stores.foldl (fun m st => writeLane m st.addr st.data) m

/-- Whether the port admits a pending store. -/
def State.admitsStore (s : State) (st : LaneStore) : Bool := s.admits .store st.addr st.data.length

/-- The port performs one pending store, any one of them (R82.2). A store it never admits stays (R301). -/
def State.performOne (s : State) (k : Nat) : State :=
  match s.pending[k]? with
  | some st =>
    if s.admitsStore st then
      { s with mem := writeLane s.mem st.addr st.data, pending := s.pending.eraseIdx k }
    else s
  | none => s

/-! ### Bytes of any value (R86, 93 U6) -/

/-- The memory after a free value is put into each of some bytes, the counter advanced once per byte. -/
def spoil (m : List Host.Cell) (free : Nat) : List Word → List Host.Cell
  | [] => m
  | a :: as => spoil (writeByte m a.toNat ((Config.freeWord free).setWidth 8)) (free + 1) as

/-! ### Acceptance and completion (R30, R259) -/

/-- Acceptance of a command word (R30): LAST <- w, DONE <- 0, BUSY <- 1, POS <- 0. -/
def State.accept (s : State) (w : Word) : State :=
  { s with
    last := w
    status := { s.status with done := false, busy := true }
    pos := { group := 0#16, col := 0#12 }
    raced := [] }

/-- Completion (R259): when every pending store can be performed they are (log entry 10), and then POS, BUSY and
DONE change together; a store the port never admits keeps the command busy for ever (R260, R301). The bytes
`spoiled` of the destination, those that a data race concerns, are of any value from then on (R86, 93 U6). -/
def State.complete (s : State) (spoiled : List Word) : State :=
  if s.pending.all s.admitsStore then
    { s with
      mem := spoil (performStores s.mem s.pending) s.free spoiled
      free := s.free + spoiled.length
      raced := []
      pending := []
      pos := { group := 0#16, col := 0#12 }
      status := { s.status with busy := false, done := true } }
  else s

/-! ### CFGERR, taken and acknowledged (R293, R299) -/

/-- The cause code of a rejection (R291). -/
def rejectCause : Reject → BitVec 4
  | .rsvdOp => 1#4
  | .mbz => 2#4
  | .rsvdItype => 3#4
  | .rsvdSelect => 0#4

/-- The cause code of a TAPGEN whose shape is not finite (R291, NONFINITE). -/
def causeNonfinite : BitVec 4 := 4#4

/-- `raise CFGERR(cause)` (R293): the flag and the cause, and nothing else. -/
def State.raiseCfgErr (s : State) (cause : BitVec 4) : State :=
  { s with status := { s.status with cfgerr := true, cause := cause } }

/-- A host write to STATUS (R28, R299): a 1 in bit 1, 2 or 3 clears DONE, CFGERR or OVR; CAUSE stays. -/
def State.writeStatus (s : State) (v : Word) : State :=
  { s with
    status := { s.status with
      done := s.status.done && !v.getLsbD 1
      cfgerr := s.status.cfgerr && !v.getLsbD 2
      ovr := s.status.ovr && !v.getLsbD 3 } }

/-- A write to CMD while BUSY = 1 (R40, R300): OVR is set and the word is dropped. -/
def State.overrun (s : State) : State := { s with status := { s.status with ovr := true } }

/-! ### Registers -/

/-- Coefficient register j (R32), bits 15:0. -/
def Coefs.get (c : Coefs) (j : Nat) : Half :=
  match j with
  | 0 => c.c0 | 1 => c.c1 | 2 => c.c2 | 3 => c.c3 | 4 => c.c4 | 5 => c.c5 | 6 => c.c6 | _ => c.c7

/-- Writing coefficient register j; there is none above C7. -/
def Coefs.set (c : Coefs) (j : Nat) (v : Half) : Coefs :=
  match j with
  | 0 => { c with c0 := v }
  | 1 => { c with c1 := v }
  | 2 => { c with c2 := v }
  | 3 => { c with c3 := v }
  | 4 => { c with c4 := v }
  | 5 => { c with c5 := v }
  | 6 => { c with c6 := v }
  | 7 => { c with c7 := v }
  | _ => c

/-- Writing consecutive coefficient registers from j on (R134). -/
def Coefs.load (c : Coefs) (j : Nat) : List Half → Coefs
  | [] => c
  | v :: vs => Coefs.load (c.set j v) (j + 1) vs

/-- `ID` (R31). -/
def idWord : Word := 0x43520107#32

/-- The bus address of register n (R20). -/
def regAddress (n : BitVec 6) : Word := Config.regBase + 4#32 * n.setWidth 32

/-- The word POS reads as (R27). -/
def Pos.word (p : Pos) : Word := (0#4 ++ p.col) ++ p.group

/-- A host write to an operand, shape or coefficient register of an idle block (R20 to R26, R32, R33);
indices that are read only, reserved or handled elsewhere are ignored. -/
def State.writeData (s : State) (n : BitVec 6) (v : Word) : State :=
  match n.toNat with
  | 4 => { s with ops := { s.ops with srcBase := v } }
  | 5 => { s with ops := { s.ops with srcStride := v } }
  | 6 => { s with ops := { s.ops with dstBase := v } }
  | 7 => { s with ops := { s.ops with dstStride := v } }
  | 8 => { s with ops := { s.ops with width := v.setWidth 16 } }
  | 9 => { s with ops := { s.ops with height := v.setWidth 16 } }
  | 12 => { s with shape := { s.shape with fbLo := v } }
  | 13 => { s with shape := { s.shape with fbHi := v } }
  | 14 => { s with shape := { s.shape with fcLo := v } }
  | 15 => { s with shape := { s.shape with fcHi := v } }
  | 16 => { s with coefs := s.coefs.set 0 (v.setWidth 16) }
  | 17 => { s with coefs := s.coefs.set 1 (v.setWidth 16) }
  | 18 => { s with coefs := s.coefs.set 2 (v.setWidth 16) }
  | 19 => { s with coefs := s.coefs.set 3 (v.setWidth 16) }
  | 20 => { s with coefs := s.coefs.set 4 (v.setWidth 16) }
  | 21 => { s with coefs := s.coefs.set 5 (v.setWidth 16) }
  | 22 => { s with coefs := s.coefs.set 6 (v.setWidth 16) }
  | 23 => { s with coefs := s.coefs.set 7 (v.setWidth 16) }
  | _ => s

/-- A host write to any register but CMD (R20, R29, R40): STATUS and CTRL take it at any time, the data
registers only while BUSY = 0, and are written from then on (R42). -/
def State.writeReg (s : State) (n : BitVec 6) (v : Word) : State :=
  if n = 1#6 then s.writeStatus v
  else if n = 2#6 then { s with ie := v.getLsbD 0 }
  else if s.status.busy then s
  else { s.writeData n v with unwritten := s.unwritten.erase n.toNat }

/-! ### Reset (R320, R322) -/

/-- Which of the stores pending at a reset are performed: each whole or not at all, nobody knows which (R322).
The counter is advanced once per store. -/
def survivors (free : Nat) (admitted : LaneStore → Bool) : List LaneStore → List LaneStore
  | [] => []
  | st :: sts =>
    if admitted st && (Config.freeWord free).getLsbD 0 then st :: survivors (free + 1) admitted sts
    else survivors (free + 1) admitted sts

/-- Reset (R320, R322): the control state goes to its reset values, the command in progress is abandoned,
every data register holds a free value (it "keeps or loses its value"), and of the pending stores some are
performed; the bytes `spoiled` that a data race concerns are of any value (93 U5, U6). What stands in the host's
queue and on the lane unit's ports is not the block's. -/
def State.hardReset (s : State) (spoiled : List Word) : State :=
  let n := s.free
  let r := n + s.pending.length + spoiled.length
  let half (i : Nat) : BitVec 16 := (Config.freeWord (r + i)).setWidth 16
  { s with
    status := { busy := false, done := false, cfgerr := false, ovr := false, cause := 0#4 }
    ie := false
    last := 0#32
    pos := { group := 0#16, col := 0#12 }
    mem := spoil (performStores s.mem (survivors n s.admitsStore s.pending)) (n + s.pending.length) spoiled
    pending := []
    raced := []
    unwritten := unspecifiedAtReset
    ops :=
      { srcBase := Config.freeWord r, srcStride := Config.freeWord (r + 1)
        dstBase := Config.freeWord (r + 2), dstStride := Config.freeWord (r + 3)
        width := half 4, height := half 5 }
    shape :=
      { fbLo := Config.freeWord (r + 6), fbHi := Config.freeWord (r + 7)
        fcLo := Config.freeWord (r + 8), fcHi := Config.freeWord (r + 9) }
    coefs :=
      { c0 := half 10, c1 := half 11, c2 := half 12, c3 := half 13
        c4 := half 14, c5 := half 15, c6 := half 16, c7 := half 17 }
    carry := (Config.freeWord (r + 18)).setWidth 8
    free := r + 19 }

end Sys2Proof.Machine
end

