-- ==== Sys2Proof/Machine/Control.lean ====
section
/-!
DEFINITION. The meaning of `nop` (spec 44_dispatch_and_commands R255).
-/

namespace Sys2Proof.Machine

/-- `nop` (R255): accepted like any command and completed in the same step. -/
def execNop (s : State) : Host.Outcome State Fault Refusal :=
  if s.status.busy then .next (s.complete [])
  else .next ((s.accept (commandWord 0 0 0 0 0 0)).complete [])

end Sys2Proof.Machine
end

