-- ==== Sys2Proof/Machine/Lanes.lean ====
section
/-!
DEFINITION. The lane arithmetic unit (spec 41_lane_arithmetic): the sixteen operations on lanes as lists of
elements, the composite functions the kernels use, and the lane layout in bits. Element 0 is the leftmost.
-/

namespace Sys2Proof.Machine

/-- A byte lane: `L` unsigned samples (R10). -/
abbrev ByteLane := List Byte
/-- A half-word lane: `L/2` elements of 16 bits (R10). -/
abbrev HalfLane := List Half
/-- A word lane: `L/4` elements of 32 bits (R10). -/
abbrev WordLane := List Word

/-! ### Averages -/

/-- One element of AVG2 (R152): `(a + b + 1) >> 1`, the sum unbounded. -/
def avg2Elem (a b : Byte) : Byte := BitVec.ofNat 8 ((a.toNat + b.toNat + 1) >>> 1)

/-- AVG2 (R152). -/
def avg2 (a b : ByteLane) : ByteLane := List.zipWith avg2Elem a b

/-- The correction of AVG4 (R153): `((a ^ b) | (c ^ d)) & (p ^ q) & 1`. -/
def avg4Fix (a b c d p q : Nat) : Nat := ((a ^^^ b) ||| (c ^^^ d)) &&& (p ^^^ q) &&& 1

/-- One element of AVG4 (R153): the two-stage average less its correction. -/
def avg4Elem (a b c d : Byte) : Byte :=
  let p := (a.toNat + b.toNat + 1) >>> 1
  let q := (c.toNat + d.toNat + 1) >>> 1
  let t := (p + q + 1) >>> 1
  BitVec.ofNat 8 (t - avg4Fix a.toNat b.toNat c.toNat d.toNat p q)

/-- A function of four elements applied along four lanes. -/
def map4 (f : Byte → Byte → Byte → Byte → Byte) : ByteLane → ByteLane → ByteLane → ByteLane → ByteLane
  | a :: as, b :: bs, c :: cs, d :: ds => f a b c d :: map4 f as bs cs ds
  | _, _, _, _ => []

/-- AVG4 (R153). -/
def avg4 (a b c d : ByteLane) : ByteLane := map4 avg4Elem a b c d

/-! ### Widening and interleaving -/

/-- WIDENLO (R154): the lower half, zero-extended. -/
def widenLo (a : ByteLane) : HalfLane := (a.take (a.length / 2)).map fun x => x.setWidth 16

/-- WIDENHI (R155): the upper half, zero-extended. -/
def widenHi (a : ByteLane) : HalfLane := (a.drop (a.length / 2)).map fun x => x.setWidth 16

/-- Pairing two lists element by element: p0, q0, p1, q1, ... -/
def interleave : HalfLane → HalfLane → HalfLane
  | p :: ps, q :: qs => p :: q :: interleave ps qs
  | _, _ => []

/-- ILV16LO (R156). -/
def ilv16Lo (p q : HalfLane) : HalfLane := interleave (p.take (p.length / 2)) (q.take (q.length / 2))

/-- ILV16HI (R157). -/
def ilv16Hi (p q : HalfLane) : HalfLane := interleave (p.drop (p.length / 2)) (q.drop (q.length / 2))

/-! ### Add, multiply-accumulate, shift, saturate-pack -/

/-- ADD16 (R158): wraps modulo 2^16. -/
def add16 (p q : HalfLane) : HalfLane := List.zipWith (fun x y => x + y) p q

/-- ADD32 (R159): wraps modulo 2^32. -/
def add32 (u v : WordLane) : WordLane := List.zipWith (fun x y => x + y) u v

/-- One element of MADD (R160): the sum of two exact signed products, wrapped to 32 bits. -/
def maddElem (x0 x1 k0 k1 : Half) : Word := BitVec.ofInt 32 (x0.toInt * k0.toInt + x1.toInt * k1.toInt)

/-- MADD (R160): sample pairs times coefficient pairs. -/
def madd : HalfLane → HalfLane → WordLane
  | x0 :: x1 :: xs, k0 :: k1 :: ks => maddElem x0 x1 k0 k1 :: madd xs ks
  | _, _ => []

/-- SRA32 (R161): arithmetic shift right, rounding toward minus infinity. -/
def sra32 (u : WordLane) (n : Nat) : WordLane := u.map fun x => x.sshiftRight n

/-- `clamp` (R8). -/
def clampInt (v lo hi : Int) : Int := min (max v lo) hi

/-- `sat16` (R162). -/
def sat16 (v : Word) : Half := BitVec.ofInt 16 (clampInt v.toInt (-32768) 32767)

/-- `satu8` (R163), of a half-word read as signed. -/
def satu8 (v : Half) : Byte := BitVec.ofInt 8 (clampInt v.toInt 0 255)

/-- PACKS32 (R162). -/
def packs32 (lo hi : WordLane) : HalfLane := lo.map sat16 ++ hi.map sat16

/-- PACKUS16 (R163). -/
def packus16 (lo hi : HalfLane) : ByteLane := lo.map satu8 ++ hi.map satu8

/-- BCAST (R164) to a lane of `l` bytes: two scalars repeated `l/4` times. -/
def bcast (l : Nat) (p0 p1 : Half) : HalfLane := (List.replicate (l / 4) [p0, p1]).flatten

/-- A half-word lane reread as a word lane (R166): elements 2j and 2j+1 are the low and high halves of word j. -/
def rereadWords : HalfLane → WordLane
  | p0 :: p1 :: ps => (p1 ++ p0) :: rereadWords ps
  | _ => []

/-- SHIFTIN (R165): every element moves one place up and the carry enters at element 0. -/
def shiftIn (a : ByteLane) (cy : Byte) : ByteLane := (cy :: a).take a.length

/-! ### Composite functions (R167 to R169), written as the unit's operations -/

/-- The two halves and the two groups of every composite: `f` is the work on one interleaved group, given the
widening and the interleaving of that group. -/
def byHalves (f : (ByteLane → HalfLane) → (HalfLane → HalfLane → HalfLane) → WordLane) : ByteLane :=
  packus16 (packs32 (f widenLo ilv16Lo) (f widenLo ilv16Hi)) (packs32 (f widenHi ilv16Lo) (f widenHi ilv16Hi))

/-- BLEND(w0, w1, s)(a, b) (R167): the weighted two-row blend. -/
def blend (w0 w1 : Half) (sh : Nat) (a b : ByteLane) : ByteLane :=
  byHalves fun widen ilv =>
    sra32
      (add32 (madd (ilv (widen a) (widen b)) (bcast a.length w0 w1))
        (rereadWords (bcast a.length (BitVec.ofNat 16 (2 ^ (sh - 1))) 0#16)))
      sh

/-- MAC4(q0, q1, q2, q3)(r0, r1, r2, r3) (R168): the saturating multiply-accumulate. -/
def mac4 (q0 q1 q2 q3 : Half) (r0 r1 r2 r3 : ByteLane) : ByteLane :=
  byHalves fun widen ilv =>
    sra32
      (add32
        (add32 (madd (ilv (widen r0) (widen r1)) (bcast r0.length q0 q1))
          (madd (ilv (widen r2) (widen r3)) (bcast r0.length q2 q3)))
        (rereadWords (bcast r0.length 512#16 0#16)))
      10

/-- MACSYM(c0, c1)(r0, r1, r2, r3) (R169): the symmetry shortcut. -/
def macsym (c0 c1 : Half) (r0 r1 r2 r3 : ByteLane) : ByteLane :=
  byHalves fun widen ilv =>
    let inner := add16 (widen r1) (widen r2)
    let outer := add16 (widen r0) (widen r3)
    sra32
      (add32 (madd (ilv inner outer) (bcast r0.length c0 c1)) (rereadWords (bcast r0.length 512#16 0#16)))
      10

/-! ### Lane layout (R166) -/

/-- The byte lane of `l` bytes in a port: byte element i is bits 8i+7:8i. -/
def bytesOf (l : Nat) (v : BitVec 256) : ByteLane := (List.range l).map fun i => v.extractLsb' (8 * i) 8

/-- The half-word lane in a port: element i is bits 16i+15:16i. -/
def halvesOf (l : Nat) (v : BitVec 256) : HalfLane := (List.range (l / 2)).map fun i => v.extractLsb' (16 * i) 16

/-- The word lane in a port: element j is bits 32j+31:32j. -/
def wordsOf (l : Nat) (v : BitVec 256) : WordLane := (List.range (l / 4)).map fun j => v.extractLsb' (32 * j) 32

/-- Elements of `n` bits laid out from bit 0 up, as a number. -/
def layOut (n : Nat) : List Nat → Nat
  | [] => 0
  | x :: xs => x + 2 ^ n * layOut n xs

/-- A byte lane in a port; the bits above the lane are 0. -/
def ofBytes (a : ByteLane) : BitVec 256 := BitVec.ofNat 256 (layOut 8 (a.map BitVec.toNat))

/-- A half-word lane in a port. -/
def ofHalves (a : HalfLane) : BitVec 256 := BitVec.ofNat 256 (layOut 16 (a.map BitVec.toNat))

/-- A word lane in a port. -/
def ofWords (a : WordLane) : BitVec 256 := BitVec.ofNat 256 (layOut 32 (a.map BitVec.toNat))

end Sys2Proof.Machine
end

