-- ==== Sys2Proof/Machine/Kernels.lean ====
section
/-!
DEFINITION. The eleven row kernels and the dispatch table: which source rows a group reads, which rows it
writes and what it writes there, and its clamp flags (spec 42_kernels_point_linear, 43_kernels_cubic,
44_dispatch_and_commands R230, R257).
-/

namespace Sys2Proof.Machine

/-- The eleven kernels (R230), each named by its rule. -/
inductive Kernel where
  /-- K_PT_P (R185) -/
  | ptP
  /-- K_PT_I (R186) -/
  | ptI
  /-- K_LIN_HALF_P (R187) -/
  | linHalfP
  /-- K_LIN_HALF_I (R188) -/
  | linHalfI
  /-- K_LIN_XF_I (R189) -/
  | linXfI
  /-- K_LIN_Q_P (R190) -/
  | linQP
  /-- K_LIN_E_I (R191) -/
  | linEI
  /-- K_CUB_SYM_P (R211) -/
  | cubSymP
  /-- K_CUB_SYM_I (R212) -/
  | cubSymI
  /-- K_CUB_Q_P (R213) -/
  | cubQP
  /-- K_CUB_8_I (R214) -/
  | cub8I
deriving DecidableEq, Repr

/-- The dispatch table (R230); total, and the lane width selects no kernel. -/
def dispatch : IType → Siting → Scan → Kernel
  | .point, _, .progressive => .ptP
  | .point, _, .interlaced => .ptI
  | .linear, .s2, .progressive => .linQP
  | .linear, _, .progressive => .linHalfP
  | .linear, .s1, .interlaced => .linHalfI
  | .linear, .s2, .interlaced => .linEI
  | .linear, _, .interlaced => .linXfI
  | .cubic, .s0, .progressive => .cubSymP
  | .cubic, .s3, .progressive => .cubSymP
  | .cubic, _, .progressive => .cubQP
  | .cubic, .s0, .interlaced => .cubSymI
  | .cubic, .s3, .interlaced => .cubSymI
  | .cubic, _, .interlaced => .cub8I

/-- The scan structure a kernel belongs to (R230). -/
def Kernel.scan : Kernel → Scan
  | .ptP | .linHalfP | .linQP | .cubSymP | .cubQP => .progressive
  | .ptI | .linHalfI | .linXfI | .linEI | .cubSymI | .cub8I => .interlaced

/-- How many indices a kernel's group index runs over: source rows, or rows of one field (R184, R256). -/
def groupCount (sc : Scan) (h : Nat) : Nat :=
  match sc with
  | .progressive => h
  | .interlaced => h / 2

/-- `clampP` (R182). -/
def clampP (h : Nat) (i : Int) : Nat := (min (max i 0) ((h : Int) - 1)).toNat

/-- `clampF` (R183). -/
def clampF (h : Nat) (k : Int) : Nat := (min (max k 0) (((h / 2 : Nat) : Int) - 1)).toNat

/-- The frame row of row k of field f after the field clamp (R183: `F_f[k] = S[2k + f]`). -/
def fieldRow (h f : Nat) (k : Int) : Nat := 2 * clampF h k + f

/-- The source rows a group reads, after clamping, one entry per lane load of its step (R258). -/
def Kernel.sources (K : Kernel) (h g : Nat) : List Nat :=
  let i : Int := g
  match K with
  | .ptP => [g]
  | .ptI => [2 * g, 2 * g + 1]
  | .linHalfP => [g, clampP h (i + 1)]
  | .linHalfI => [2 * g, 2 * g + 1, fieldRow h 0 (i + 1), fieldRow h 1 (i + 1)]
  | .linXfI => [2 * g, 2 * g + 1, clampP h (2 * i + 2)]
  | .linQP => [clampP h (i - 1), g, clampP h (i + 1)]
  | .linEI =>
    [fieldRow h 0 (i - 1), fieldRow h 1 (i - 1), 2 * g, 2 * g + 1, fieldRow h 0 (i + 1), fieldRow h 1 (i + 1)]
  | .cubSymP => [clampP h (i - 1), g, clampP h (i + 1), clampP h (i + 2)]
  | .cubSymI =>
    [fieldRow h 0 (i - 1), fieldRow h 1 (i - 1), 2 * g, 2 * g + 1, fieldRow h 0 (i + 1), fieldRow h 1 (i + 1),
      fieldRow h 0 (i + 2), fieldRow h 1 (i + 2)]
  | .cubQP => [clampP h (i - 2), clampP h (i - 1), g, clampP h (i + 1), clampP h (i + 2)]
  | .cub8I =>
    [fieldRow h 0 (i - 2), fieldRow h 1 (i - 2), fieldRow h 0 (i - 1), fieldRow h 1 (i - 1), 2 * g, 2 * g + 1,
      fieldRow h 0 (i + 1), fieldRow h 1 (i + 1), fieldRow h 0 (i + 2), fieldRow h 1 (i + 2)]

/-- The source rows that destination row j is computed from, after clamping (R185 to R191, R211 to R214). -/
def Kernel.reads (K : Kernel) (h j : Nat) : List Nat :=
  let i : Int := (j / 2 : Nat)
  let k : Int := (j / 4 : Nat)
  let f := j % 2
  let P (n : Int) : Nat := clampP h n
  let F (n : Int) : Nat := fieldRow h f n
  let upper := j % 2 = 0
  let upperF := j % 4 < 2
  match K with
  | .ptP => [P i]
  | .ptI => [F k]
  | .linHalfP => if upper then [P i] else [P i, P (i + 1)]
  | .linHalfI => if upperF then [F k] else [F k, F (k + 1)]
  | .linXfI => if upperF then [F k] else [P (2 * k + 1), P (2 * k + 2)]
  | .linQP => if upper then [P i, P (i - 1)] else [P i, P (i + 1)]
  | .linEI => if upperF then [F k, F (k - 1)] else [F k, F (k + 1)]
  | .cubSymP => if upper then [P i] else [P (i - 1), P i, P (i + 1), P (i + 2)]
  | .cubSymI => if upperF then [F k] else [F (k - 1), F k, F (k + 1), F (k + 2)]
  | .cubQP => if upper then [P (i - 2), P (i - 1), P i, P (i + 1)] else [P (i - 1), P i, P (i + 1), P (i + 2)]
  | .cub8I => if upperF then [F (k - 2), F (k - 1), F k, F (k + 1)] else [F (k - 1), F k, F (k + 1), F (k + 2)]

/-- How many coefficient registers a kernel reads, from C0 on (the table of R216; R218). -/
def Kernel.coefCount : Kernel → Nat
  | .cubSymP | .cubSymI => 2
  | .cubQP => 4
  | .cub8I => 8
  | .ptP | .ptI | .linHalfP | .linHalfI | .linXfI | .linQP | .linEI => 0

/-- RECIPE_LIN_XF at its default (R189, log entry 13): the two blended rows of a group from `a` = S[2k+1] and
`b` = S[clampP(2k+2)]. -/
def recipeLinXf (a b : ByteLane) : ByteLane × ByteLane := (blend 171#16 85#16 8 a b, blend 85#16 171#16 8 a b)

/-- The destination rows of a group and the lane each receives, from the loaded source lanes `S` and the
coefficient registers `C`: the row pattern of the kernel's rule for one value of its loop index. -/
def Kernel.outputs (K : Kernel) (h g : Nat) (C : Coefs) (S : Nat → ByteLane) : List (Nat × ByteLane) :=
  let i : Int := g
  let P (j : Int) : ByteLane := S (clampP h j)
  let F (f : Nat) (k : Int) : ByteLane := S (fieldRow h f k)
  match K with
  | .ptP => [(2 * g, S g), (2 * g + 1, S g)]
  | .ptI => [(4 * g, S (2 * g)), (4 * g + 1, S (2 * g + 1)), (4 * g + 2, S (2 * g)), (4 * g + 3, S (2 * g + 1))]
  | .linHalfP => [(2 * g, S g), (2 * g + 1, avg2 (S g) (P (i + 1)))]
  | .linHalfI =>
    [(4 * g, S (2 * g)), (4 * g + 1, S (2 * g + 1)), (4 * g + 2, avg2 (S (2 * g)) (F 0 (i + 1))),
      (4 * g + 3, avg2 (S (2 * g + 1)) (F 1 (i + 1)))]
  | .linXfI =>
    let mixed := recipeLinXf (S (2 * g + 1)) (P (2 * i + 2))
    [(4 * g, S (2 * g)), (4 * g + 1, S (2 * g + 1)), (4 * g + 2, mixed.1), (4 * g + 3, mixed.2)]
  | .linQP => [(2 * g, avg4 (S g) (S g) (S g) (P (i - 1))), (2 * g + 1, avg4 (S g) (S g) (S g) (P (i + 1)))]
  | .linEI =>
    [(4 * g, blend 7#16 1#16 3 (S (2 * g)) (F 0 (i - 1))),
      (4 * g + 1, blend 5#16 3#16 3 (S (2 * g + 1)) (F 1 (i - 1))),
      (4 * g + 2, blend 5#16 3#16 3 (S (2 * g)) (F 0 (i + 1))),
      (4 * g + 3, blend 7#16 1#16 3 (S (2 * g + 1)) (F 1 (i + 1)))]
  | .cubSymP =>
    [(2 * g, S g), (2 * g + 1, macsym C.c0 C.c1 (P (i - 1)) (S g) (P (i + 1)) (P (i + 2)))]
  | .cubSymI =>
    [(4 * g, S (2 * g)), (4 * g + 1, S (2 * g + 1)),
      (4 * g + 2, macsym C.c0 C.c1 (F 0 (i - 1)) (S (2 * g)) (F 0 (i + 1)) (F 0 (i + 2))),
      (4 * g + 3, macsym C.c0 C.c1 (F 1 (i - 1)) (S (2 * g + 1)) (F 1 (i + 1)) (F 1 (i + 2)))]
  | .cubQP =>
    [(2 * g, mac4 C.c0 C.c1 C.c2 C.c3 (P (i - 2)) (P (i - 1)) (S g) (P (i + 1))),
      (2 * g + 1, mac4 C.c3 C.c2 C.c1 C.c0 (P (i - 1)) (S g) (P (i + 1)) (P (i + 2)))]
  | .cub8I =>
    [(4 * g, mac4 C.c0 C.c1 C.c2 C.c3 (F 0 (i - 2)) (F 0 (i - 1)) (S (2 * g)) (F 0 (i + 1))),
      (4 * g + 1, mac4 C.c7 C.c6 C.c5 C.c4 (F 1 (i - 2)) (F 1 (i - 1)) (S (2 * g + 1)) (F 1 (i + 1))),
      (4 * g + 2, mac4 C.c4 C.c5 C.c6 C.c7 (F 0 (i - 1)) (S (2 * g)) (F 0 (i + 1)) (F 0 (i + 2))),
      (4 * g + 3, mac4 C.c3 C.c2 C.c1 C.c0 (F 1 (i - 1)) (S (2 * g + 1)) (F 1 (i + 1)) (F 1 (i + 2)))]

/-- How far above its group index a kernel reaches (the table of R184). -/
def Kernel.up : Kernel → Nat
  | .ptP | .ptI | .linHalfP | .linHalfI | .linXfI => 0
  | .linQP | .linEI | .cubSymP | .cubSymI => 1
  | .cubQP | .cub8I => 2

/-- How far below its group index a kernel reaches (the table of R184). -/
def Kernel.down : Kernel → Nat
  | .ptP | .ptI => 0
  | .linHalfP | .linHalfI | .linXfI | .linQP | .linEI => 1
  | .cubSymP | .cubSymI | .cubQP | .cub8I => 2

/-- TOPCLAMP(g) (R184). -/
def Kernel.topClamp (K : Kernel) (g : Nat) : Bool := decide (g < K.up)

/-- BOTCLAMP(g) (R184): `g + down` is above the last index. -/
def Kernel.botClamp (K : Kernel) (h g : Nat) : Bool := decide (groupCount K.scan h ≤ g + K.down)

end Sys2Proof.Machine
end

