-- ==== Sys2Proof/Machine/Operands.lean ====
section
/-!
DEFINITION. The operand forms: plane views and their addresses, the bottom-up mirror, regions, and the
preconditions of RESAMPLE and HSHIFT that nothing in the block checks (spec 20_memory, 60_exceptions R298).
-/

namespace Sys2Proof.Machine

/-- `L`, the bytes of a lane (R105). -/
def laneBytes : LaneWidth → Nat
  | .w16 => 16
  | .w32 => 32

/-- A plane view (R71): base, signed stride, samples per row, rows. -/
structure View where
  base : Word
  stride : Int
  width : Nat
  rows : Nat
deriving DecidableEq, Repr

/-- Where row r starts, before reduction modulo 2^32 (R79). -/
def View.rowStart (v : View) (r : Int) : Int := (v.base.toNat : Int) + r * v.stride

/-- `rowaddr` (R72). -/
def View.rowAddr (v : View) (r : Int) : Word := BitVec.ofInt 32 (v.rowStart r)

/-- `laneaddr` (R72) for lanes of `l` bytes. -/
def View.laneAddr (v : View) (l r c : Nat) : Word := v.rowAddr r + BitVec.ofNat 32 (c * l)

/-- The byte address of column x of row r (R72). -/
def View.byteAddr (v : View) (r x : Nat) : Word := v.rowAddr r + BitVec.ofNat 32 x

/-- `mirror` (R73): row r of the mirrored view is row `rows-1-r` of the written one. -/
def View.mirror (v : View) : View :=
  { v with base := v.rowAddr ((v.rows : Int) - 1), stride := -v.stride }

/-- A view in a row order (R73, R106). -/
def View.ordered (v : View) : RowOrder → View
  | .topDown => v
  | .bottomUp => v.mirror

/-- `W` (R25). -/
def State.width (s : State) : Nat := s.ops.width.toNat

/-- `H` (R26). -/
def State.height (s : State) : Nat := s.ops.height.toNat

/-- The source view as written (R71, R109). -/
def State.srcView (s : State) : View :=
  { base := s.ops.srcBase, stride := s.ops.srcStride.toInt, width := s.width, rows := s.height }

/-- The destination view of `rows` rows as written (R71, R109). -/
def State.dstView (s : State) (rows : Nat) : View :=
  { base := s.ops.dstBase, stride := s.ops.dstStride.toInt, width := s.width, rows := rows }

/-- Whether a byte address lies in the region of a view (R79). -/
def View.holds (v : View) (a : Nat) : Bool :=
  (List.range v.rows).any fun r =>
    decide (v.rowStart r ≤ (a : Int)) && decide ((a : Int) < v.rowStart r + v.width)

/-- P5 for one view: no address of the region lies below 0 or above 2^32 - 1 (R79 a). -/
def View.inSpace (v : View) : Bool :=
  (List.range v.rows).all fun r =>
    decide (0 ≤ v.rowStart r) && decide (v.rowStart r + v.width ≤ 2 ^ 32)

/-- P6: no row of one view meets a row of the other (R79 c). -/
def View.disjoint (v w : View) : Bool :=
  (List.range v.rows).all fun r => (List.range w.rows).all fun q =>
    decide (v.rowStart r + v.width ≤ w.rowStart q) || decide (w.rowStart q + w.width ≤ v.rowStart r)

/-- P3 for one view: base and stride are multiples of the lane width (R77). -/
def View.aligned (v : View) (l : Nat) : Bool :=
  decide (v.base.toNat % l = 0) && decide (v.stride % (l : Int) = 0)

/-- P4 for one view: the magnitude of the stride is at least the width (R79 b). -/
def View.spaced (v : View) : Bool := decide (v.width ≤ v.stride.natAbs)

/-- The first of the preconditions P1 to P6 of R298 that a command with lanes of `l` bytes, source view `src`
and destination view `dst` breaks. The rest of R298 is no reason to stop: P7 is the port's (R301), P8 leaves bytes of
any value (R86), P9 to P11 are commands on registers that hold a value all the same (log entry 18), and P12 leaves
coefficients of any value (log entry 6). -/
def brokenPrecondition (l : Nat) (src dst : View) : Option Refusal :=
  if src.width < l ∨ src.width % l ≠ 0 then some .badWidth
  else if src.rows < 4 ∨ src.rows % 4 ≠ 0 then some .badHeight
  else if !(src.aligned l && dst.aligned l) then some .misalignedPlane
  else if !(src.spaced && dst.spaced) then some .shortStride
  else if !(src.inSpace && dst.inSpace) then some .regionWraps
  else if !(src.disjoint dst) then some .planesOverlap
  else none

end Sys2Proof.Machine
end

