-- ==== Sys2Proof/Machine/Race.lean ====
section
/-!
DEFINITION. Data races (spec 20_memory R86, 93_implementation_defined U6): which bytes of the destination are of
any value after another agent has stored to bytes of the planes of a running command.
-/

namespace Sys2Proof.Machine

/-- The bytes of `dst` that a race concerns: those also written by the other agent, and those computed from a byte
of `src` that it wrote. `feeds j x` are the rows and columns of `src` that column x of row j is computed from. -/
def raceBytes (src dst : View) (feeds : Nat → Nat → List (Nat × Nat)) (raced : List Word) : List Word :=
  match raced with
  | [] => []
  | _ =>
    (List.range dst.rows).flatMap fun j => ((List.range dst.width).filter fun x =>
      raced.contains (dst.byteAddr j x) || (feeds j x).any fun p => raced.contains (src.byteAddr p.1 p.2)).map
        (dst.byteAddr j)

/-- The bytes that races concern in a RESAMPLE: a sample is computed from the same column of its source rows (R181). -/
def State.resampleRace (s : State) (K : Kernel) (ro : RowOrder) : List Word :=
  raceBytes (s.srcView.ordered ro) ((s.dstView (2 * s.height)).ordered ro)
    (fun j x => (K.reads s.height j).map fun r => (r, x)) s.raced

/-- The bytes that races concern in an HSHIFT: a sample is computed from itself and its left neighbour (R281). -/
def State.hshiftRace (s : State) (ro : RowOrder) : List Word :=
  raceBytes (s.srcView.ordered ro) ((s.dstView s.height).ordered ro) (fun r x => [(r, x), (r, x - 1)]) s.raced

end Sys2Proof.Machine
end

