-- ==== Sys2Proof/Machine/Sequencer.lean ====
section
/-!
DEFINITION. The sequencer (spec 44_dispatch_and_commands R256 to R259, 45_hshift R283): one step of a
RESAMPLE or an HSHIFT, and the shared meaning of a command word. A command whose word is presented to an
idle block is accepted; while the block is busy the same command takes its next step (log entry 3).
-/

namespace Sys2Proof.Machine

/-- The position after a step (R258): the next column, or column 0 of the next group. -/
def Pos.next (p : Pos) (nc : Nat) : Pos :=
  if p.col.toNat + 1 = nc then { group := p.group + 1#16, col := 0#12 } else { p with col := p.col + 1#12 }

/-- The lane of row r of a view in column c, loaded (R150). -/
def State.loadRow (s : State) (v : View) (l c r : Nat) : ByteLane := readLane s.mem (v.laneAddr l r c) l

/-- The stores of the rows of a group in column c (R151, R181). -/
def rowStores (v : View) (l c : Nat) (rows : List (Nat × ByteLane)) : List LaneStore :=
  rows.map fun p => { addr := v.laneAddr l p.1 c, data := p.2 }

/-- Whether the port admits the loads of some rows in column c (R301). -/
def State.admitsRows (s : State) (v : View) (l c : Nat) (rows : List Nat) : Bool :=
  rows.all fun r => s.admits .load (v.laneAddr l r c) l

/-- One step of a RESAMPLE in progress (R256, R258, R259): while groups remain, the group and column at POS;
then completion. A load the port never admits leaves the sequencer waiting (R260, 93 U7). -/
def resampleStep (K : Kernel) (lw : LaneWidth) (ro : RowOrder) (s : State) : Host.Outcome State Fault Refusal :=
  let l := laneBytes lw
  let written := s.dstView (2 * s.height)
  let src := s.srcView.ordered ro
  let dst := written.ordered ro
  let g := s.pos.group.toNat
  let c := s.pos.col.toNat
  match brokenPrecondition l s.srcView written with
  | some r => .refused r
  | none =>
    if g < groupCount K.scan s.height then
      if s.admitsRows src l c (K.sources s.height g) then
        .next { s.issue (rowStores dst l c (K.outputs s.height g s.coefs (s.loadRow src l c))) with
          pos := s.pos.next (s.width / l) }
      else .next s
    else .next (s.complete (s.resampleRace K ro))

/-- The meaning of a RESAMPLE command word (R30, R256). -/
def resample (it : IType) (st : Siting) (sc : Scan) (lw : LaneWidth) (ro : RowOrder) (s : State) :
    Host.Outcome State Fault Refusal :=
  if s.status.busy then resampleStep (dispatch it st sc) lw ro s
  else .next (s.accept (resampleWord it st sc lw ro))

/-- `hstep` (R283) on a loaded lane: the filtered lane, from the carry of the row. -/
def hshiftLane (a : ByteLane) (cy : Byte) : ByteLane := avg4 a a a (shiftIn a cy)

/-- One step of an HSHIFT in progress (R280, R283, R259). -/
def hshiftStep (lw : LaneWidth) (ro : RowOrder) (s : State) : Host.Outcome State Fault Refusal :=
  let l := laneBytes lw
  let written := s.dstView s.height
  let src := s.srcView.ordered ro
  let dst := written.ordered ro
  let g := s.pos.group.toNat
  let c := s.pos.col.toNat
  match brokenPrecondition l s.srcView written with
  | some r => .refused r
  | none =>
    if g < s.height then
      if s.admitsRows src l c [g] then
        let a := s.loadRow src l c g
        let cy := if c = 0 then a.headD 0#8 else s.carry
        .next { s.issue (rowStores dst l c [(g, hshiftLane a cy)]) with
          carry := a.getLastD 0#8
          pos := s.pos.next (s.width / l) }
      else .next s
    else .next (s.complete (s.hshiftRace ro))

end Sys2Proof.Machine
end

