-- ==== Sys2Proof/Machine/Cubic.lean ====
section
/-!
DEFINITION. The meanings of the eight Cubic RESAMPLE instructions (spec 44 R247 to R254, kernels 43 R211 to R214).
Each is the shared meaning of a command word at its own dispatch key.
-/

namespace Sys2Proof.Machine

/-- `resample.cubic.s0.p` (R247). -/
def execResampleCubicS0P (lw : LaneWidth) (ro : RowOrder) (s : State) : Host.Outcome State Fault Refusal :=
  resample .cubic .s0 .progressive lw ro s

/-- `resample.cubic.s1.p` (R248). -/
def execResampleCubicS1P (lw : LaneWidth) (ro : RowOrder) (s : State) : Host.Outcome State Fault Refusal :=
  resample .cubic .s1 .progressive lw ro s

/-- `resample.cubic.s2.p` (R249). -/
def execResampleCubicS2P (lw : LaneWidth) (ro : RowOrder) (s : State) : Host.Outcome State Fault Refusal :=
  resample .cubic .s2 .progressive lw ro s

/-- `resample.cubic.s3.p` (R250). -/
def execResampleCubicS3P (lw : LaneWidth) (ro : RowOrder) (s : State) : Host.Outcome State Fault Refusal :=
  resample .cubic .s3 .progressive lw ro s

/-- `resample.cubic.s0.i` (R251). -/
def execResampleCubicS0I (lw : LaneWidth) (ro : RowOrder) (s : State) : Host.Outcome State Fault Refusal :=
  resample .cubic .s0 .interlaced lw ro s

/-- `resample.cubic.s1.i` (R252). -/
def execResampleCubicS1I (lw : LaneWidth) (ro : RowOrder) (s : State) : Host.Outcome State Fault Refusal :=
  resample .cubic .s1 .interlaced lw ro s

/-- `resample.cubic.s2.i` (R253). -/
def execResampleCubicS2I (lw : LaneWidth) (ro : RowOrder) (s : State) : Host.Outcome State Fault Refusal :=
  resample .cubic .s2 .interlaced lw ro s

/-- `resample.cubic.s3.i` (R254). -/
def execResampleCubicS3I (lw : LaneWidth) (ro : RowOrder) (s : State) : Host.Outcome State Fault Refusal :=
  resample .cubic .s3 .interlaced lw ro s

end Sys2Proof.Machine
end

