-- ==== Sys2Proof/Machine/Hshift.lean ====
section
/-!
DEFINITION. The meaning of `hshift`, the horizontal phase shift filter (spec 45_hshift).
-/

namespace Sys2Proof.Machine

/-- `hshift` (R280): accepted when the block is idle, one lane per step while it is busy. -/
def execHshift (lw : LaneWidth) (ro : RowOrder) (s : State) : Host.Outcome State Fault Refusal :=
  if s.status.busy then hshiftStep lw ro s
  else .next (s.accept (hshiftWord lw ro))

end Sys2Proof.Machine
end

