-- ==== Sys2Proof/Machine/LaneOps.lean ====
section
/-!
DEFINITION. The meanings of the sixteen lane operation selects (spec 41_lane_arithmetic R150 to R165): the
operation on the operand ports of the lane unit, its result on the result port (log entry 15).
-/

namespace Sys2Proof.Machine

/-- `L` of the command in `LAST`, the lane width of the unit (41_lane_arithmetic, common part). -/
def State.laneL (s : State) : Nat := laneBytes (laneWidthOf (s.last.extractLsb' 9 1))

/-- The result port takes a lane; no flag and no other state changes. -/
def State.withResult (s : State) (v : BitVec 256) : State := { s with lane := { s.lane with result := v } }

/-- The byte lane on a port. -/
def State.portBytes (s : State) (port : LaneUnit → BitVec 256) : ByteLane := bytesOf s.laneL (port s.lane)

/-- The half-word lane on a port. -/
def State.portHalves (s : State) (port : LaneUnit → BitVec 256) : HalfLane := halvesOf s.laneL (port s.lane)

/-- The word lane on a port. -/
def State.portWords (s : State) (port : LaneUnit → BitVec 256) : WordLane := wordsOf s.laneL (port s.lane)

/-- `LDL` (R150): the byte lane at the address port; an access the port never admits waits for ever (R301). -/
def execLdl (s : State) : Host.Outcome State Fault Refusal :=
  if s.lane.addr.toNat % s.laneL ≠ 0 then .refused .misalignedLane
  else if s.admits .load s.lane.addr s.laneL then .next (s.withResult (ofBytes (readLane s.mem s.lane.addr s.laneL)))
  else .next s

/-- `STL` (R151): the lane on port a joins PENDING. -/
def execStl (s : State) : Host.Outcome State Fault Refusal :=
  if s.lane.addr.toNat % s.laneL ≠ 0 then .refused .misalignedLane
  else .next (s.issue [{ addr := s.lane.addr, data := s.portBytes LaneUnit.a }])

/-- `AVG2` (R152): ports a and b. -/
def execAvg2 (s : State) : Host.Outcome State Fault Refusal :=
  .next (s.withResult (ofBytes (avg2 (s.portBytes LaneUnit.a) (s.portBytes LaneUnit.b))))

/-- `AVG4` (R153): ports a, b, c and d. -/
def execAvg4 (s : State) : Host.Outcome State Fault Refusal :=
  .next (s.withResult (ofBytes (avg4 (s.portBytes LaneUnit.a) (s.portBytes LaneUnit.b) (s.portBytes LaneUnit.c)
    (s.portBytes LaneUnit.d))))

/-- `WIDENLO` (R154): port a. -/
def execWidenLo (s : State) : Host.Outcome State Fault Refusal :=
  .next (s.withResult (ofHalves (widenLo (s.portBytes LaneUnit.a))))

/-- `WIDENHI` (R155): port a. -/
def execWidenHi (s : State) : Host.Outcome State Fault Refusal :=
  .next (s.withResult (ofHalves (widenHi (s.portBytes LaneUnit.a))))

/-- `ILV16LO` (R156): ports a and b. -/
def execIlv16Lo (s : State) : Host.Outcome State Fault Refusal :=
  .next (s.withResult (ofHalves (ilv16Lo (s.portHalves LaneUnit.a) (s.portHalves LaneUnit.b))))

/-- `ILV16HI` (R157): ports a and b. -/
def execIlv16Hi (s : State) : Host.Outcome State Fault Refusal :=
  .next (s.withResult (ofHalves (ilv16Hi (s.portHalves LaneUnit.a) (s.portHalves LaneUnit.b))))

/-- `ADD16` (R158): ports a and b. -/
def execAdd16 (s : State) : Host.Outcome State Fault Refusal :=
  .next (s.withResult (ofHalves (add16 (s.portHalves LaneUnit.a) (s.portHalves LaneUnit.b))))

/-- `ADD32` (R159): ports a and b. -/
def execAdd32 (s : State) : Host.Outcome State Fault Refusal :=
  .next (s.withResult (ofWords (add32 (s.portWords LaneUnit.a) (s.portWords LaneUnit.b))))

/-- `MADD` (R160): samples on port a, coefficients on port b. -/
def execMadd (s : State) : Host.Outcome State Fault Refusal :=
  .next (s.withResult (ofWords (madd (s.portHalves LaneUnit.a) (s.portHalves LaneUnit.b))))

/-- `SRA32` (R161): port a by the shift amount. -/
def execSra32 (imm : Nat) (s : State) : Host.Outcome State Fault Refusal :=
  .next (s.withResult (ofWords (sra32 (s.portWords LaneUnit.a) imm)))

/-- `PACKS32` (R162): low half from port a, high half from port b. -/
def execPacks32 (s : State) : Host.Outcome State Fault Refusal :=
  .next (s.withResult (ofHalves (packs32 (s.portWords LaneUnit.a) (s.portWords LaneUnit.b))))

/-- `PACKUS16` (R163): low half from port a, high half from port b. -/
def execPackus16 (s : State) : Host.Outcome State Fault Refusal :=
  .next (s.withResult (ofBytes (packus16 (s.portHalves LaneUnit.a) (s.portHalves LaneUnit.b))))

/-- `BCAST` (R164): the two scalar ports. -/
def execBcast (s : State) : Host.Outcome State Fault Refusal :=
  .next (s.withResult (ofHalves (bcast s.laneL s.lane.p0 s.lane.p1)))

/-- `SHIFTIN` (R165): port a and the carry port. -/
def execShiftIn (s : State) : Host.Outcome State Fault Refusal :=
  .next (s.withResult (ofBytes (shiftIn (s.portBytes LaneUnit.a) s.lane.cy)))

end Sys2Proof.Machine
end

