-- ==== Sys2Proof/Machine/Linear.lean ====
section
/-!
DEFINITION. The meanings of the eight Linear RESAMPLE instructions (spec 44 R239 to R246, kernels 42 R187 to R191).
Each is the shared meaning of a command word at its own dispatch key.
-/

namespace Sys2Proof.Machine

/-- `resample.linear.s0.p` (R239). -/
def execResampleLinearS0P (lw : LaneWidth) (ro : RowOrder) (s : State) : Host.Outcome State Fault Refusal :=
  resample .linear .s0 .progressive lw ro s

/-- `resample.linear.s1.p` (R240). -/
def execResampleLinearS1P (lw : LaneWidth) (ro : RowOrder) (s : State) : Host.Outcome State Fault Refusal :=
  resample .linear .s1 .progressive lw ro s

/-- `resample.linear.s2.p` (R241). -/
def execResampleLinearS2P (lw : LaneWidth) (ro : RowOrder) (s : State) : Host.Outcome State Fault Refusal :=
  resample .linear .s2 .progressive lw ro s

/-- `resample.linear.s3.p` (R242). -/
def execResampleLinearS3P (lw : LaneWidth) (ro : RowOrder) (s : State) : Host.Outcome State Fault Refusal :=
  resample .linear .s3 .progressive lw ro s

/-- `resample.linear.s0.i` (R243). -/
def execResampleLinearS0I (lw : LaneWidth) (ro : RowOrder) (s : State) : Host.Outcome State Fault Refusal :=
  resample .linear .s0 .interlaced lw ro s

/-- `resample.linear.s1.i` (R244). -/
def execResampleLinearS1I (lw : LaneWidth) (ro : RowOrder) (s : State) : Host.Outcome State Fault Refusal :=
  resample .linear .s1 .interlaced lw ro s

/-- `resample.linear.s2.i` (R245). -/
def execResampleLinearS2I (lw : LaneWidth) (ro : RowOrder) (s : State) : Host.Outcome State Fault Refusal :=
  resample .linear .s2 .interlaced lw ro s

/-- `resample.linear.s3.i` (R246). -/
def execResampleLinearS3I (lw : LaneWidth) (ro : RowOrder) (s : State) : Host.Outcome State Fault Refusal :=
  resample .linear .s3 .interlaced lw ro s

end Sys2Proof.Machine
end

