-- ==== Sys2Proof/Machine/Point.lean ====
section
/-!
DEFINITION. The meanings of the eight Point RESAMPLE instructions (spec 44 R231 to R238, kernels 42 R185 and R186).
Each is the shared meaning of a command word at its own dispatch key.
-/

namespace Sys2Proof.Machine

/-- `resample.point.s0.p` (R231). -/
def execResamplePointS0P (lw : LaneWidth) (ro : RowOrder) (s : State) : Host.Outcome State Fault Refusal :=
  resample .point .s0 .progressive lw ro s

/-- `resample.point.s1.p` (R232). -/
def execResamplePointS1P (lw : LaneWidth) (ro : RowOrder) (s : State) : Host.Outcome State Fault Refusal :=
  resample .point .s1 .progressive lw ro s

/-- `resample.point.s2.p` (R233). -/
def execResamplePointS2P (lw : LaneWidth) (ro : RowOrder) (s : State) : Host.Outcome State Fault Refusal :=
  resample .point .s2 .progressive lw ro s

/-- `resample.point.s3.p` (R234). -/
def execResamplePointS3P (lw : LaneWidth) (ro : RowOrder) (s : State) : Host.Outcome State Fault Refusal :=
  resample .point .s3 .progressive lw ro s

/-- `resample.point.s0.i` (R235). -/
def execResamplePointS0I (lw : LaneWidth) (ro : RowOrder) (s : State) : Host.Outcome State Fault Refusal :=
  resample .point .s0 .interlaced lw ro s

/-- `resample.point.s1.i` (R236). -/
def execResamplePointS1I (lw : LaneWidth) (ro : RowOrder) (s : State) : Host.Outcome State Fault Refusal :=
  resample .point .s1 .interlaced lw ro s

/-- `resample.point.s2.i` (R237). -/
def execResamplePointS2I (lw : LaneWidth) (ro : RowOrder) (s : State) : Host.Outcome State Fault Refusal :=
  resample .point .s2 .interlaced lw ro s

/-- `resample.point.s3.i` (R238). -/
def execResamplePointS3I (lw : LaneWidth) (ro : RowOrder) (s : State) : Host.Outcome State Fault Refusal :=
  resample .point .s3 .interlaced lw ro s

end Sys2Proof.Machine
end

