-- ==== Sys2Proof/Machine/TapFilter.lean ====
section
/-!
DEFINITION. The fixed-point tap generator (spec 40_tap_generator): the value of a binary64 pattern, the
two-parameter cubic filter in exact rational arithmetic, the tap offsets and the conversion to fixed point.
-/

namespace Sys2Proof.Machine

/-- `FB` (R33). -/
def State.fb (s : State) : BitVec 64 := s.shape.fbHi ++ s.shape.fbLo

/-- `FC` (R33). -/
def State.fc (s : State) : BitVec 64 := s.shape.fcHi ++ s.shape.fcLo

/-- Whether a binary64 pattern is finite (R130). -/
def finitePattern (v : BitVec 64) : Bool := decide (v.extractLsb' 52 11 ≠ 0x7FF#11)

/-- `val` of a finite pattern (R130), as an exact rational over 2^1075; a subnormal counts twice its fraction. -/
def patternValue (v : BitVec 64) : ℚ :=
  let e := (v.extractLsb' 52 11).toNat
  let f := (v.extractLsb' 0 52).toNat
  let m : Int := if e = 0 then ((2 * f : Nat) : Int) else (((2 ^ 52 + f) * 2 ^ e : Nat) : Int)
  mkRat (if v.getLsbD 63 then -m else m) (2 ^ 1075)

/-- The filter `k(d)` (R131): inner segment for t < 1, outer for 1 <= t < 2, and 0 beyond. -/
def filterValue (b c d : ℚ) : ℚ :=
  let t := if d < 0 then -d else d
  if t < 1 then ((12 - 9 * b - 6 * c) * (t * t * t) + (-18 + 12 * b + 6 * c) * (t * t) + (6 - 2 * b)) / 6
  else if t < 2 then
    ((-b - 6 * c) * (t * t * t) + (6 * b + 30 * c) * (t * t) + (-12 * b - 48 * c) * t + (8 * b + 24 * c)) / 6
  else 0

/-- `tap(q)` (R133): 1024 q, rounded half away from zero. -/
def tapOf (q : ℚ) : Int :=
  if q < 0 then -((-q * 1024 + 1 / 2).floor) else (q * 1024 + 1 / 2).floor

/-- The offsets of a set (the table of R132), in units of the spacing of neighbouring rows. -/
def tapOffsets : Siting → Scan → List ℚ
  | .s0, _ => [1 / 2, 3 / 2]
  | .s3, _ => [1 / 2, 3 / 2]
  | .s1, .progressive => [7 / 4, 3 / 4, 1 / 4, 5 / 4]
  | .s2, .progressive => [7 / 4, 3 / 4, 1 / 4, 5 / 4]
  | .s1, .interlaced => [7 / 4, 3 / 4, 1 / 4, 5 / 4, 5 / 4, 1 / 4, 3 / 4, 7 / 4]
  | .s2, .interlaced => [15 / 8, 7 / 8, 1 / 8, 9 / 8, 11 / 8, 3 / 8, 5 / 8, 13 / 8]

/-- TAP_FUNCTION at its default, the exact evaluation (R137, log entry 14). -/
def tapFunction (b c d : ℚ) : Int := tapOf (filterValue b c d)

/-- The taps of a set for two shape patterns (R132). -/
def tapSet (st : Siting) (sc : Scan) (fb fc : BitVec 64) : List Int :=
  (tapOffsets st sc).map (tapFunction (patternValue fb) (patternValue fc))

/-- Whether a tap fits a coefficient register (R134, R135). -/
def tapFits (t : Int) : Bool := decide (-32768 ≤ t) && decide (t ≤ 32767)

/-- The values a TAPGEN leaves in the registers it writes: its taps, or, when one of them does not fit 16 bits,
free values in all of them (93 U3, log entry 6). -/
def coefficientsOf (ts : List Int) (free : Nat) : List Half :=
  if ts.all tapFits then ts.map (BitVec.ofInt 16)
  else (List.range ts.length).map fun j => (Config.freeWord (free + j)).setWidth 16

/-- One step of a TAPGEN in progress (R134), which is its only one: the registers are written (R42) and it completes. -/
def tapgenStep (st : Siting) (sc : Scan) (s : State) : Host.Outcome State Fault Refusal :=
  let ts := tapSet st sc s.fb s.fc
  .next (State.complete
    { s with
      coefs := s.coefs.load 0 (coefficientsOf ts s.free)
      unwritten := s.unwritten.filter fun n => !(decide (16 ≤ n) && decide (n < 16 + ts.length))
      free := if ts.all tapFits then s.free else s.free + ts.length } [])

/-- The meaning of a TAPGEN command word (R30, R134): rejected with cause 4 when a shape parameter is not
finite (R108, R291), accepted otherwise, and stepped once while busy. -/
def tapgen (st : Siting) (sc : Scan) (s : State) : Host.Outcome State Fault Refusal :=
  if s.status.busy then tapgenStep st sc s
  else if finitePattern s.fb && finitePattern s.fc then .next (s.accept (tapgenWord st sc))
  else .next (s.raiseCfgErr causeNonfinite)

end Sys2Proof.Machine
end

