-- ==== Sys2Proof/Machine/Tapgen.lean ====
section
/-!
DEFINITION. The meanings of the eight TAPGEN instructions (spec 40_tap_generator R134).
-/

namespace Sys2Proof.Machine

/-- `tapgen.s0.p` (R134). -/
def execTapgenS0P (s : State) : Host.Outcome State Fault Refusal := tapgen .s0 .progressive s

/-- `tapgen.s1.p` (R134). -/
def execTapgenS1P (s : State) : Host.Outcome State Fault Refusal := tapgen .s1 .progressive s

/-- `tapgen.s2.p` (R134). -/
def execTapgenS2P (s : State) : Host.Outcome State Fault Refusal := tapgen .s2 .progressive s

/-- `tapgen.s3.p` (R134). -/
def execTapgenS3P (s : State) : Host.Outcome State Fault Refusal := tapgen .s3 .progressive s

/-- `tapgen.s0.i` (R134). -/
def execTapgenS0I (s : State) : Host.Outcome State Fault Refusal := tapgen .s0 .interlaced s

/-- `tapgen.s1.i` (R134). -/
def execTapgenS1I (s : State) : Host.Outcome State Fault Refusal := tapgen .s1 .interlaced s

/-- `tapgen.s2.i` (R134). -/
def execTapgenS2I (s : State) : Host.Outcome State Fault Refusal := tapgen .s2 .interlaced s

/-- `tapgen.s3.i` (R134). -/
def execTapgenS3I (s : State) : Host.Outcome State Fault Refusal := tapgen .s3 .interlaced s

end Sys2Proof.Machine
end

