-- ==== Sys2Proof/Machine/Dispatch.lean ====
section
/-!
DEFINITION. The meaning of every instruction: one arm per constructor, one direct call each.
-/

namespace Sys2Proof.Machine

def exec (i : Instr) (s : State) : Host.Outcome State Fault Refusal :=
  match i with
  | .nop => Sys2Proof.Machine.execNop s
  | .resamplePointS0P lw ro => Sys2Proof.Machine.execResamplePointS0P lw ro s
  | .resamplePointS1P lw ro => Sys2Proof.Machine.execResamplePointS1P lw ro s
  | .resamplePointS2P lw ro => Sys2Proof.Machine.execResamplePointS2P lw ro s
  | .resamplePointS3P lw ro => Sys2Proof.Machine.execResamplePointS3P lw ro s
  | .resamplePointS0I lw ro => Sys2Proof.Machine.execResamplePointS0I lw ro s
  | .resamplePointS1I lw ro => Sys2Proof.Machine.execResamplePointS1I lw ro s
  | .resamplePointS2I lw ro => Sys2Proof.Machine.execResamplePointS2I lw ro s
  | .resamplePointS3I lw ro => Sys2Proof.Machine.execResamplePointS3I lw ro s
  | .resampleLinearS0P lw ro => Sys2Proof.Machine.execResampleLinearS0P lw ro s
  | .resampleLinearS1P lw ro => Sys2Proof.Machine.execResampleLinearS1P lw ro s
  | .resampleLinearS2P lw ro => Sys2Proof.Machine.execResampleLinearS2P lw ro s
  | .resampleLinearS3P lw ro => Sys2Proof.Machine.execResampleLinearS3P lw ro s
  | .resampleLinearS0I lw ro => Sys2Proof.Machine.execResampleLinearS0I lw ro s
  | .resampleLinearS1I lw ro => Sys2Proof.Machine.execResampleLinearS1I lw ro s
  | .resampleLinearS2I lw ro => Sys2Proof.Machine.execResampleLinearS2I lw ro s
  | .resampleLinearS3I lw ro => Sys2Proof.Machine.execResampleLinearS3I lw ro s
  | .resampleCubicS0P lw ro => Sys2Proof.Machine.execResampleCubicS0P lw ro s
  | .resampleCubicS1P lw ro => Sys2Proof.Machine.execResampleCubicS1P lw ro s
  | .resampleCubicS2P lw ro => Sys2Proof.Machine.execResampleCubicS2P lw ro s
  | .resampleCubicS3P lw ro => Sys2Proof.Machine.execResampleCubicS3P lw ro s
  | .resampleCubicS0I lw ro => Sys2Proof.Machine.execResampleCubicS0I lw ro s
  | .resampleCubicS1I lw ro => Sys2Proof.Machine.execResampleCubicS1I lw ro s
  | .resampleCubicS2I lw ro => Sys2Proof.Machine.execResampleCubicS2I lw ro s
  | .resampleCubicS3I lw ro => Sys2Proof.Machine.execResampleCubicS3I lw ro s
  | .hshift lw ro => Sys2Proof.Machine.execHshift lw ro s
  | .tapgenS0P => Sys2Proof.Machine.execTapgenS0P s
  | .tapgenS1P => Sys2Proof.Machine.execTapgenS1P s
  | .tapgenS2P => Sys2Proof.Machine.execTapgenS2P s
  | .tapgenS3P => Sys2Proof.Machine.execTapgenS3P s
  | .tapgenS0I => Sys2Proof.Machine.execTapgenS0I s
  | .tapgenS1I => Sys2Proof.Machine.execTapgenS1I s
  | .tapgenS2I => Sys2Proof.Machine.execTapgenS2I s
  | .tapgenS3I => Sys2Proof.Machine.execTapgenS3I s
  | .ldl => Sys2Proof.Machine.execLdl s
  | .stl => Sys2Proof.Machine.execStl s
  | .avg2 => Sys2Proof.Machine.execAvg2 s
  | .avg4 => Sys2Proof.Machine.execAvg4 s
  | .widenLo => Sys2Proof.Machine.execWidenLo s
  | .widenHi => Sys2Proof.Machine.execWidenHi s
  | .ilv16Lo => Sys2Proof.Machine.execIlv16Lo s
  | .ilv16Hi => Sys2Proof.Machine.execIlv16Hi s
  | .add16 => Sys2Proof.Machine.execAdd16 s
  | .add32 => Sys2Proof.Machine.execAdd32 s
  | .madd => Sys2Proof.Machine.execMadd s
  | .sra32 imm => Sys2Proof.Machine.execSra32 imm s
  | .packs32 => Sys2Proof.Machine.execPacks32 s
  | .packus16 => Sys2Proof.Machine.execPackus16 s
  | .bcast => Sys2Proof.Machine.execBcast s
  | .shiftIn => Sys2Proof.Machine.execShiftIn s

end Sys2Proof.Machine
end

