-- ==== Sys2Proof/Machine/Flags.lean ====
section
/-!
DEFINITION. The flags as the host sees them: the live clamp flags, the STATUS word, the interrupt output, and
the read side of the register file (spec 10_state R20, R28, R32, 60_exceptions R295).
-/

namespace Sys2Proof.Machine

/-- The kernel of the command word in `LAST`, if it is a RESAMPLE (R36, R230). -/
def commandKernel (w : Word) : Option Kernel :=
  if w.extractLsb' 0 4 = 1#4 then
    some (dispatch (itypeOf (w.extractLsb' 4 2)) (sitingOf (w.extractLsb' 6 2)) (scanOf (w.extractLsb' 8 1)))
  else none

/-- The two planes of the command in progress, if it has planes (R86). -/
def State.planesInUse (s : State) : Option (View × View) :=
  if s.status.busy then
    if s.last.extractLsb' 0 4 = 1#4 then some (s.srcView, s.dstView (2 * s.height))
    else if s.last.extractLsb' 0 4 = 2#4 then some (s.srcView, s.dstView s.height)
    else none
  else none

/-- The bytes that data races concern in the command in progress (R86). -/
def State.spoiled (s : State) : List Word :=
  let ro := rowOrderOf (s.last.extractLsb' 10 1)
  match commandKernel s.last with
  | some K => s.resampleRace K ro
  | none => if s.last.extractLsb' 0 4 = 2#4 then s.hshiftRace ro else []

/-- `NG` of the command in `LAST` (R27). -/
def State.groups (s : State) : Nat :=
  match commandKernel s.last with
  | some K => groupCount K.scan s.height
  | none => if s.last.extractLsb' 0 4 = 2#4 then s.height else 1

/-- `NC` of the command in `LAST` (R27). -/
def State.columns (s : State) : Nat := s.width / laneBytes (laneWidthOf (s.last.extractLsb' 9 1))

/-- The group whose clamps STATUS shows: the one at POS, while a RESAMPLE runs and groups remain (R28, R184;
log entry 11). -/
def State.liveGroup (s : State) : Option (Kernel × Nat) :=
  match commandKernel s.last with
  | some K =>
    if s.status.busy && decide (s.pos.group.toNat < groupCount K.scan s.height) then some (K, s.pos.group.toNat) else none
  | none => none

/-- `STATUS.TOPCLAMP` (R28). -/
def State.topClamp (s : State) : Bool :=
  match s.liveGroup with
  | some (K, g) => K.topClamp g
  | none => false

/-- `STATUS.BOTCLAMP` (R28). -/
def State.botClamp (s : State) : Bool :=
  match s.liveGroup with
  | some (K, g) => K.botClamp s.height g
  | none => false

/-- The STATUS word (R28). -/
def State.statusWord (s : State) : Word :=
  let low (b : Bool) (i : Nat) : Word := (BitVec.ofBool b).setWidth 32 <<< i
  low s.status.busy 0 ||| low s.status.done 1 ||| low s.status.cfgerr 2 ||| low s.status.ovr 3
    ||| low s.topClamp 4 ||| low s.botClamp 5 ||| s.status.cause.setWidth 32 <<< 8

/-- The interrupt output (R295): `CTRL.IE & (STATUS.DONE | STATUS.CFGERR)`. -/
def State.irq (s : State) : Bool := s.ie && (s.status.done || s.status.cfgerr)

/-- What a host read of register n returns (R20); no read has a side effect (R40). -/
def State.readReg (s : State) (n : BitVec 6) : Word :=
  match n.toNat with
  | 0 => s.last
  | 1 => s.statusWord
  | 2 => (BitVec.ofBool s.ie).setWidth 32
  | 3 => idWord
  | 4 => s.ops.srcBase
  | 5 => s.ops.srcStride
  | 6 => s.ops.dstBase
  | 7 => s.ops.dstStride
  | 8 => s.ops.width.setWidth 32
  | 9 => s.ops.height.setWidth 32
  | 10 => s.pos.word
  | 12 => s.shape.fbLo
  | 13 => s.shape.fbHi
  | 14 => s.shape.fcLo
  | 15 => s.shape.fcHi
  | 16 => (s.coefs.get 0).signExtend 32
  | 17 => (s.coefs.get 1).signExtend 32
  | 18 => (s.coefs.get 2).signExtend 32
  | 19 => (s.coefs.get 3).signExtend 32
  | 20 => (s.coefs.get 4).signExtend 32
  | 21 => (s.coefs.get 5).signExtend 32
  | 22 => (s.coefs.get 6).signExtend 32
  | 23 => (s.coefs.get 7).signExtend 32
  | _ => 0#32

end Sys2Proof.Machine
end

