-- ==== Sys2Proof/Machine/Fetch.lean ====
section
/-!
DEFINITION. What the next step is about: the first event of the queue, or the sequencer's turn. Host accesses
and the memory port are answered here; a command word or a lane select that is to run is handed on with the
state it runs in (spec 10_state R30, R40, 60_exceptions R294, 20_memory R82, R86).
-/

namespace Sys2Proof.Machine

/-- What a step has to do: run an instruction in a state, or only answer. -/
inductive Fetched where
  | run (i : Instr) (s : State)
  | answer (o : Host.Outcome State Fault Refusal)

/-- The sequencer's turn: a busy block runs the command in `LAST` (R36), an idle one does nothing (R320). -/
def State.sequencerTurn (s : State) : Fetched :=
  if s.status.busy then
    match decode (.cmd s.last) with
    | .ok i => .run i s
    | .error _ => .answer (.refused .corruptLast)
  else .answer (.next s)

/-- A host write to CMD (R30, R294): overrun while busy, CFGERR for a word that does not decode, else the command. -/
def State.writeCommand (s : State) (w : Word) : Fetched :=
  if s.status.busy then .answer (.next s.overrun)
  else match decode (.cmd w) with
    | .ok i => .run i s
    | .error r => .answer (.next (s.raiseCfgErr (rejectCause r)))

/-- Whether a byte lies in a plane of the command in progress (R86). -/
def State.inUse (s : State) (a : Word) : Bool :=
  match s.planesInUse with
  | some (src, dst) => src.holds a.toNat || dst.holds a.toNat
  | none => false

/-- A host store of one byte (R7). One that hits a plane of the command in progress is a data race the hardware
does not detect (R86): the byte is stored, and it is noted for the bytes of any value at completion. -/
def State.hostStore (s : State) (a : Word) (v : Byte) : Host.Outcome State Fault Refusal :=
  if mappedByte s.limits a then
    .next { s with
      mem := writeByte s.mem a.toNat v
      raced := if s.inUse a then s.raced.insert a else s.raced }
  else .refused .platformUnmapped

/-- A host load of one byte (R82.5, R86): a destination byte of the command in progress is any value. -/
def State.hostLoad (s : State) (a : Word) : Host.Outcome State Fault Refusal :=
  let plain : State := { s with hostData := (readByte s.mem a.toNat).setWidth 32 }
  if mappedByte s.limits a then
    match s.planesInUse with
    | some (_, dst) =>
      if dst.holds a.toNat then
        .next { s with hostData := ((Config.freeWord s.free).setWidth 8).setWidth 32, free := s.free + 1 }
      else .next plain
    | none => .next plain
  else .refused .platformUnmapped

/-- A lane select presented to the unit (R112, R113). -/
def State.selectLane (s : State) (w : BitVec 9) : Fetched :=
  match decode (.lop w) with
  | .ok i => .run i s
  | .error _ => .answer (.refused .reservedSelect)

/-- The first event taken off the queue and answered; an empty queue gives the sequencer its turn. -/
def State.fetch (s : State) : Fetched :=
  match s.events with
  | [] => s.sequencerTurn
  | e :: rest =>
    let t : State := { s with events := rest }
    match e with
    | .write n v => if n = 0#6 then t.writeCommand v else .answer (.next (t.writeReg n v))
    | .read n => .answer (.next { t with hostData := t.readReg n })
    | .store a v => .answer (t.hostStore a v)
    | .load a => .answer (t.hostLoad a)
    | .sequencer => t.sequencerTurn
    | .perform k => .answer (.next (t.performOne k))
    | .reset => .answer (.next (t.hardReset t.spoiled))
    | .laneSelect w => t.selectLane w
    | .laneDrive u => .answer (.next { t with lane := u })

/-- The event that presents a table word: a write of a command word to CMD, or a lane select of nine bits. -/
def presentWord (nbits w : Nat) : Event :=
  if nbits ≤ 16 then .laneSelect (BitVec.ofNat 9 w) else .write 0#6 (BitVec.ofNat 32 w)

end Sys2Proof.Machine
end

