-- ==== Sys2Proof/Machine/Step.lean ====
section
/-!
DEFINITION. One step of the machine, and how a table word is placed so that the very next step runs it.
-/

namespace Sys2Proof.Machine

/-- One step: the next event, or the sequencer's turn (R7). -/
def step (s : State) : Host.Outcome State Fault Refusal :=
  match s.fetch with
  | .run i t => exec i t
  | .answer o => o

/-- `s` with an instruction where the next step takes its instruction from: the host's next access writes it to
CMD, or it is presented to the lane unit. A command word runs only on an idle block (R30), so BUSY is 0
(log entry 3). -/
def State.withFetchWord (s : State) (nbits w : Nat) : State :=
  { s with
    events := presentWord nbits w :: s.events
    status := { s.status with busy := if nbits ≤ 16 then s.status.busy else false } }

end Sys2Proof.Machine
end

