-- ==== Sys2Proof/Safety.lean ====
section
/-!
DEFINITION. The terms in which claims about the machine are stated: the invariant of the software-visible
machine, what it means that a step of a command is ready, and the sample functions of the kernels written per
sample and not per lane (spec 41 R170 allows both).
-/

namespace Sys2Proof.Machine

/-! ### The invariant -/

/-- While the block is idle POS is 0, PENDING is empty (R27, R35 b) and no race is noted (R86). -/
def State.quietWhenIdle (s : State) : Prop :=
  s.status.busy = false → s.pos = { group := 0#16, col := 0#12 } ∧ s.pending = [] ∧ s.raced = []

/-- `LAST` is a legal command word (R30: rejected and dropped words never reach it). -/
def State.lastLegal (s : State) : Prop := (decode (.cmd s.last)).isOk = true

/-- POS names a group up to NG and a column below NC (R27; NG itself between the last step and completion). -/
def State.posInRange (s : State) : Prop :=
  s.status.busy = true →
    s.pos.group.toNat ≤ s.groups ∧ (s.pos.col = 0#12 ∨ s.pos.col.toNat < s.columns)

/-- The queue holds no lane select: those are the lane unit's test port, not software's (R112). -/
def State.softwareOnly (s : State) : Prop := ∀ w, Event.laneSelect w ∉ s.events

/-- The invariant every step keeps. -/
structure State.Inv (s : State) : Prop where
  memory : Memory.wf s.mem = true
  idle : s.quietWhenIdle
  last : s.lastLegal
  position : s.posInRange
  cause : s.status.cause.toNat ≤ 4
  queue : s.softwareOnly

/-- The destination view of the command in progress, in the row order it runs in (R71, R73). -/
def State.destination (s : State) : Option View :=
  if s.last.extractLsb' 0 4 = 1#4 then
    some ((s.dstView (2 * s.height)).ordered (rowOrderOf (s.last.extractLsb' 10 1)))
  else if s.last.extractLsb' 0 4 = 2#4 then
    some ((s.dstView s.height).ordered (rowOrderOf (s.last.extractLsb' 10 1)))
  else none

/-- Every pending store is one whole lane of a row and column of the destination view (R80, R81). -/
def State.pendingInDestination (s : State) : Prop :=
  ∀ st ∈ s.pending, ∃ v, s.destination = some v ∧ ∃ r c, r < v.rows ∧ c < s.columns ∧
    st.data.length = laneBytes (laneWidthOf (s.last.extractLsb' 9 1)) ∧
    st.addr = v.laneAddr (laneBytes (laneWidthOf (s.last.extractLsb' 9 1))) r c

/-! ### Bytes of pending stores -/

/-- Whether a lane store writes the byte at an address. -/
def LaneStore.covers (st : LaneStore) (a : Nat) : Bool :=
  (List.range st.data.length).any fun i => decide ((st.addr + BitVec.ofNat 32 i).toNat = a)

/-- Two lane stores that write no common byte. -/
def LaneStore.apart (x y : LaneStore) : Prop := ∀ a, ¬ (x.covers a = true ∧ y.covers a = true)

/-! ### A step of a command -/

/-- A step in column POS.COL is ready: the block is busy, the preconditions P1 to P6 hold for a destination of
`dstRows` rows, and every source lane of the column is admitted. -/
def State.ready (s : State) (lw : LaneWidth) (ro : RowOrder) (dstRows : Nat) : Bool :=
  s.status.busy && decide (brokenPrecondition (laneBytes lw) s.srcView (s.dstView dstRows) = none) &&
    (List.range s.height).all fun r =>
      s.admits .load ((s.srcView.ordered ro).laneAddr (laneBytes lw) r s.pos.col.toNat) (laneBytes lw)

/-- Sample x of source row r in the lane column at POS (R72, R74, R181), as a number. -/
def State.sample (s : State) (lw : LaneWidth) (ro : RowOrder) (r x : Nat) : Nat :=
  (readByte s.mem
    ((s.srcView.ordered ro).laneAddr (laneBytes lw) r s.pos.col.toNat + BitVec.ofNat 32 x).toNat).toNat

/-- The lane stores of some destination rows in the column at POS, each row's samples given as numbers. -/
def State.rowsStored (s : State) (lw : LaneWidth) (ro : RowOrder) (dstRows : Nat)
    (rows : List (Nat × (Nat → Nat))) : List LaneStore :=
  rows.map fun p =>
    { addr := ((s.dstView dstRows).ordered ro).laneAddr (laneBytes lw) p.1 s.pos.col.toNat
      data := (List.range (laneBytes lw)).map fun x => BitVec.ofNat 8 (p.2 x) }

/-- The state after a step that issues these rows: they join PENDING and POS advances (R258); nothing else. -/
def State.afterRows (s : State) (lw : LaneWidth) (ro : RowOrder) (dstRows : Nat)
    (rows : List (Nat × (Nat → Nat))) : State :=
  { s with
    pending := s.pending ++ s.rowsStored lw ro dstRows rows
    pos :=
      if s.pos.col.toNat + 1 = s.width / laneBytes lw then { group := s.pos.group + 1#16, col := 0#12 }
      else { group := s.pos.group, col := s.pos.col + 1#12 } }

/-- `i` answers with exactly the step that issues these rows. -/
def stepsTo (i : Instr) (s : State) (lw : LaneWidth) (ro : RowOrder) (rows : List (Nat × (Nat → Nat))) : Prop :=
  exec i s = .next (s.afterRows lw ro (2 * s.height) rows)

/-! ### Samples -/

/-- `clamp(v, 0, 255)` as a number. -/
def clampByte (v : Int) : Nat := (min (max v 0) 255).toNat

/-- The weighted blend of two samples over 2^sh, ties up (R167). -/
def blendOf (w0 w1 sh a b : Nat) : Nat := (w0 * a + w1 * b + 2 ^ (sh - 1)) / 2 ^ sh

/-- The four-tap sum of four samples (R168): rounded by 512, divided by 1024 toward minus infinity, clamped. -/
def tapSum (q0 q1 q2 q3 : Half) (a b c d : Nat) : Nat :=
  clampByte ((q0.toInt * a + q1.toInt * b + q2.toInt * c + q3.toInt * d + 512) / 1024)

/-- The sample of destination row j that a kernel makes of one column `P` of a source of `h` rows (rules R185 to
R191 and R211 to R214), with the indices clamped by hand: `g - 1` is truncated at 0. -/
def Kernel.sampleOf (K : Kernel) (h : Nat) (C : Coefs) (P : Nat → Nat) (j : Nat) : Nat :=
  let i := j / 2
  let k := j / 4
  let f := j % 2
  let last := h - 1
  let lastF := h / 2 - 1
  let F (m : Nat) : Nat := P (2 * m + f)
  let upper := j % 2 = 0
  let upperF := j % 4 < 2
  match K with
  | .ptP => P i
  | .ptI => F k
  | .linHalfP => if upper then P i else (P i + P (min (i + 1) last) + 1) / 2
  | .linHalfI => if upperF then F k else (F k + F (min (k + 1) lastF) + 1) / 2
  | .linXfI =>
    let a := P (2 * k + 1)
    let b := P (min (2 * k + 2) last)
    if upperF then F k else if f = 0 then blendOf 171 85 8 a b else blendOf 85 171 8 a b
  | .linQP => if upper then (3 * P i + P (i - 1) + 2) / 4 else (3 * P i + P (min (i + 1) last) + 2) / 4
  | .linEI =>
    if upperF then (if f = 0 then blendOf 7 1 3 (F k) (F (k - 1)) else blendOf 5 3 3 (F k) (F (k - 1)))
    else if f = 0 then blendOf 5 3 3 (F k) (F (min (k + 1) lastF))
    else blendOf 7 1 3 (F k) (F (min (k + 1) lastF))
  | .cubSymP =>
    if upper then P i else tapSum C.c1 C.c0 C.c0 C.c1 (P (i - 1)) (P i) (P (min (i + 1) last)) (P (min (i + 2) last))
  | .cubSymI =>
    if upperF then F k
    else tapSum C.c1 C.c0 C.c0 C.c1 (F (k - 1)) (F k) (F (min (k + 1) lastF)) (F (min (k + 2) lastF))
  | .cubQP =>
    if upper then tapSum C.c0 C.c1 C.c2 C.c3 (P (i - 2)) (P (i - 1)) (P i) (P (min (i + 1) last))
    else tapSum C.c3 C.c2 C.c1 C.c0 (P (i - 1)) (P i) (P (min (i + 1) last)) (P (min (i + 2) last))
  | .cub8I =>
    if upperF then
      (if f = 0 then tapSum C.c0 C.c1 C.c2 C.c3 (F (k - 2)) (F (k - 1)) (F k) (F (min (k + 1) lastF))
       else tapSum C.c7 C.c6 C.c5 C.c4 (F (k - 2)) (F (k - 1)) (F k) (F (min (k + 1) lastF)))
    else if f = 0 then tapSum C.c4 C.c5 C.c6 C.c7 (F (k - 1)) (F k) (F (min (k + 1) lastF)) (F (min (k + 2) lastF))
    else tapSum C.c3 C.c2 C.c1 C.c0 (F (k - 1)) (F k) (F (min (k + 1) lastF)) (F (min (k + 2) lastF))

/-- The filtered sample of column x of a row (R281). -/
def hshiftSample (row : Nat → Nat) (x : Nat) : Nat := (3 * row x + row (x - 1) + 2) / 4

/-- The byte address of column x of row r of a view (R72). -/
def View.sampleAddr (v : View) (r x : Nat) : Nat := (v.byteAddr r x).toNat

/-- A whole command is set up: its word has just been accepted, nothing is pending, raced or queued, the planes meet
P1 to P6, and the block may load every byte of the source and store to every byte of the destination (R298, P7). -/
structure State.Started (s : State) (w : Word) (l dstRows : Nat) : Prop where
  queue : s.events = []
  busy : s.status.busy = true
  last : s.last = w
  pos : s.pos = { group := 0#16, col := 0#12 }
  pending : s.pending = []
  memory : Memory.wf s.mem = true
  planes : brokenPrecondition l s.srcView (s.dstView dstRows) = none
  raced : s.raced = []
  readable : ∀ a : Word, s.srcView.holds a.toNat = true → byteAllows s.limits .load a = true
  writable : ∀ a : Word, (s.dstView dstRows).holds a.toNat = true → byteAllows s.limits .store a = true

/-! ### Ports of the lane unit -/

/-- Byte element i of a port (R166), as a number. -/
def byteAt (v : BitVec 256) (i : Nat) : Nat := v.toNat / 2 ^ (8 * i) % 2 ^ 8

/-- Half-word element i of a port (R166). -/
def halfAt (v : BitVec 256) (i : Nat) : Half := BitVec.ofNat 16 (v.toNat / 2 ^ (16 * i))

/-- Word element j of a port (R166). -/
def wordAt (v : BitVec 256) (j : Nat) : Word := BitVec.ofNat 32 (v.toNat / 2 ^ (32 * j))

/-- `i` answers from `s` with a new value on the result port, nothing else changed, which satisfies `good` and
fills no bit above the lane. -/
def givesResult (i : Instr) (s : State) (good : BitVec 256 → Prop) : Prop :=
  ∃ r, exec i s = .next { s with lane := { s.lane with result := r } } ∧ good r ∧ r.toNat < 2 ^ (8 * s.laneL)

end Sys2Proof.Machine
end

