-- ==== Sys2Proof/Certificates/Slice0/Obligations.lean ====
section
/-!
DEFINITION. The statements for the provers. Each says what its docstring says; OBLIGATIONS.json lists them with
the parts of the spec they rest on. `exec` and `step` are the machine's; the samples and ports of Safety.lean
are the terms they are stated in.
-/

open Sys2Proof Sys2Proof.Machine

/-- Decode and encode agree on every word and every instruction.  Rests on 30_encoding.md 1. The command word;
30_encoding.md 2. The lane operation select. -/
def Obligations.DecodeInvertsEncode : Prop :=
  ∀ (c : Code) (i : Instr), decode c = .ok i ↔ i.wellFormed = true ∧ encode i = c

/-- Words written out from the encoding tables decode to their instructions.  Rests on 95_test_vectors.md 2.5
Decode and dispatch; 30_encoding.md 2. The lane operation select. -/
def Obligations.SampleWordsDecode : Prop :=
  decode (.cmd 0x00000000#32) = .ok .nop ∧
  decode (.cmd 0x00000041#32) = .ok (.resamplePointS1P .w16 .topDown) ∧
  decode (.cmd 0x00000511#32) = .ok (.resampleLinearS0I .w16 .bottomUp) ∧
  decode (.cmd 0x00000391#32) = .ok (.resampleLinearS2I .w32 .topDown) ∧
  decode (.cmd 0x000007E1#32) = .ok (.resampleCubicS3I .w32 .bottomUp) ∧
  decode (.cmd 0x00000602#32) = .ok (.hshift .w32 .bottomUp) ∧
  decode (.cmd 0x00000143#32) = .ok .tapgenS1I ∧
  decode (.lop 0b010101011#9) = .ok (.sra32 10) ∧
  decode (.cmd 0xFFFFFFFF#32) = .error .rsvdOp ∧
  decode (.cmd 0x00000831#32) = .error .mbz ∧
  decode (.cmd 0x00000031#32) = .error .rsvdItype

/-- Exactly 109 command words are legal, and 47 lane selects.  Rests on 30_encoding.md 1. The command word;
30_encoding.md 2. The lane operation select. -/
def Obligations.LegalWordsCounted : Prop :=
  (∀ w : Word, 2 ^ 11 ≤ w.toNat → ∃ r, decode (.cmd w) = .error r) ∧
  (∀ op : Nat, op < 16 →
    ((List.range 128).filter fun k => (decode (.cmd (BitVec.ofNat 32 (op + 16 * k)))).isOk).length =
      (if op = 0 then 1 else if op = 1 then 96 else if op = 2 then 4 else if op = 3 then 8 else 0)) ∧
  ((List.range 512).filter fun k => (decode (.lop (BitVec.ofNat 9 k))).isOk).length = 15 + 32

/-- What a write to CMD of an idle block does, for every word.  Rests on R108. -/
def Obligations.CommandWriteOutcome : Prop :=
  ∀ (s : State) (w : Word) (rest : List Event), s.events = .write 0#6 w :: rest → s.status.busy = false →
    let op := w.toNat % 16
    let it := w.toNat / 16 % 4
    let st := w.toNat / 64 % 4
    let il := w.toNat / 256 % 2
    let lw := w.toNat / 512 % 2
    let bu := w.toNat / 1024 % 2
    let rejected (cause : BitVec 4) : Prop :=
      step s = .next { s with events := rest, status := { s.status with cfgerr := true, cause := cause } }
    if 4 ≤ op then rejected 1#4
    else if w.toNat / 2048 ≠ 0 then rejected 2#4
    else if op = 0 ∧ w.toNat / 16 % 128 ≠ 0 then rejected 2#4
    else if op = 2 ∧ (it ≠ 0 ∨ st ≠ 0 ∨ il ≠ 0) then rejected 2#4
    else if op = 3 ∧ (it ≠ 0 ∨ lw ≠ 0 ∨ bu ≠ 0) then rejected 2#4
    else if op = 1 ∧ it = 3 then rejected 3#4
    else if op = 3 ∧ (s.shape.fbHi.toNat / 2 ^ 20 % 2 ^ 11 = 0x7FF ∨ s.shape.fcHi.toNat / 2 ^ 20 % 2 ^ 11 = 0x7FF) then
      rejected 4#4
    else
      let IT : IType := if it = 0 then .point else if it = 1 then .linear else .cubic
      let ST : Siting := if st = 0 then .s0 else if st = 1 then .s1 else if st = 2 then .s2 else .s3
      let SC : Scan := if il = 0 then .progressive else .interlaced
      let LW : LaneWidth := if lw = 0 then .w16 else .w32
      let RO : RowOrder := if bu = 0 then .topDown else .bottomUp
      decode (.cmd w) = .ok
        (if op = 0 then .nop else if op = 1 then resampleInstr IT ST SC LW RO
          else if op = 2 then .hshift LW RO else tapgenInstr ST SC) ∧
      ∃ t, step s = .next t ∧ t.last = w ∧ t.status.cfgerr = s.status.cfgerr ∧ t.status.cause = s.status.cause

/-- A step runs the decoded instruction. The queue of events is the choice of log entries 3 and 4. Rests on
10_state.md 4. Flags and control registers; 10_state.md 6. Hidden state; 44_dispatch_and_commands.md 4. The
sequencer. -/
def Obligations.StepRunsDecodedInstruction : Prop :=
  (∀ (s : State) (w : Word) (rest : List Event) (i : Instr), s.events = .write 0#6 w :: rest →
    s.status.busy = false → decode (.cmd w) = .ok i → step s = exec i { s with events := rest }) ∧
  (∀ (s : State) (rest : List Event) (i : Instr), s.events = .sequencer :: rest →
    s.status.busy = true → decode (.cmd s.last) = .ok i → step s = exec i { s with events := rest }) ∧
  (∀ (s : State) (i : Instr), s.events = [] →
    s.status.busy = true → decode (.cmd s.last) = .ok i → step s = exec i s) ∧
  (∀ (s : State) (w : BitVec 9) (rest : List Event) (i : Instr), s.events = .laneSelect w :: rest →
    decode (.lop w) = .ok i → step s = exec i { s with events := rest })

/-- A write to CMD while busy sets OVR and nothing else.  Rests on R300. -/
def Obligations.BusyCommandWriteOverruns : Prop :=
  ∀ (s : State) (rest : List Event) (v : Word), s.status.busy = true →
    (s.events = .write 0#6 v :: rest → ∃ t, step s = .next t ∧
      t = { s with events := rest, status := { s.status with ovr := true } } ∧ t.irq = s.irq) ∧
    (∀ n : BitVec 6, 3 ≤ n.toNat → s.events = .write n v :: rest → step s = .next { s with events := rest })

/-- A rejected word raises CFGERR and changes nothing else.  Rests on R293. -/
def Obligations.RejectedWordRaisesCfgErr : Prop :=
  ∀ (s : State) (w : Word) (rest : List Event), s.events = .write 0#6 w :: rest → s.status.busy = false →
    let raised (cause : BitVec 4) : Prop :=
      ∃ t, step s = .next t ∧
        t = { s with events := rest, status := { s.status with cfgerr := true, cause := cause } } ∧
        t.irq = s.ie ∧ t.status.busy = false
    (decode (.cmd w) = .error .rsvdOp → raised 1#4) ∧
    (decode (.cmd w) = .error .mbz → raised 2#4) ∧
    (decode (.cmd w) = .error .rsvdItype → raised 3#4) ∧
    (∀ st sc, decode (.cmd w) = .ok (tapgenInstr st sc) →
      s.shape.fbHi.toNat / 2 ^ 20 % 2 ^ 11 = 0x7FF ∨ s.shape.fcHi.toNat / 2 ^ 20 % 2 ^ 11 = 0x7FF → raised 4#4)

/-- The host acknowledges CFGERR; a later rejection overwrites CAUSE.  Rests on 60_exceptions.md 1. The one
synchronous event: CFGERR. -/
def Obligations.CfgErrAcknowledgedByHost : Prop :=
  (∀ (s : State) (v : Word) (rest : List Event), s.events = .write 1#6 v :: rest → v.getLsbD 2 = true →
    ∃ t, step s = .next t ∧ t.status.cfgerr = false ∧ t.status.cause = s.status.cause ∧
      t = { s with events := rest, status := { s.status with
        cfgerr := false, done := s.status.done && !v.getLsbD 1, ovr := s.status.ovr && !v.getLsbD 3 } }) ∧
  (∀ (s : State) (w : Word) (rest : List Event) (r : Reject), s.events = .write 0#6 w :: rest →
    s.status.busy = false → s.status.cfgerr = true → decode (.cmd w) = .error r →
    ∃ t, step s = .next t ∧ t.status.cfgerr = true ∧ (r = .rsvdOp → t.status.cause = 1#4) ∧
      (r = .mbz → t.status.cause = 2#4) ∧ (r = .rsvdItype → t.status.cause = 3#4)) ∧
  (∀ (s : State) (i : Instr) (w : Word) (rest : List Event), s.events = .write 0#6 w :: rest →
    s.status.busy = false → decode (.cmd w) = .ok i →
    (∃ it st sc lw ro, i = resampleInstr it st sc lw ro) ∨ (∃ lw ro, i = .hshift lw ro) →
    ∃ t, step s = .next t ∧ t.status.cfgerr = s.status.cfgerr ∧ t.status.cause = s.status.cause) ∧
  (∀ (s : State) (w : Word) (rest : List Event), s.events = .write 0#6 w :: rest → s.status.busy = true →
    ∃ t, step s = .next t ∧ t.status.cfgerr = s.status.cfgerr ∧ t.status.cause = s.status.cause)

/-- What an idle data register reads after it is written.  Rests on 10_state.md 1. The register file; 10_state.md
2. General registers: the command operands; 10_state.md 5. Other register files; 10_state.md 8. Reset values. -/
def Obligations.DataRegisterWriteThenRead : Prop :=
  ∀ (s : State) (n : BitVec 6) (v : Word) (rest : List Event), s.events = .write n v :: rest →
    s.status.busy = false → 3 ≤ n.toNat →
    ∃ t, step s = .next t ∧
      t = { s with events := rest, ops := t.ops, shape := t.shape, coefs := t.coefs
                   unwritten := s.unwritten.erase n.toNat } ∧
      t.readReg n =
        (if n.toNat ∈ [4, 5, 6, 7, 12, 13, 14, 15] then v
         else if n.toNat = 8 ∨ n.toNat = 9 then BitVec.ofNat 32 (v.toNat % 2 ^ 16)
         else if 16 ≤ n.toNat ∧ n.toNat ≤ 23 then BitVec.ofInt 32 (BitVec.ofNat 16 v.toNat).toInt
         else s.readReg n) ∧
      ∀ m : BitVec 6, m ≠ n → 3 ≤ m.toNat → t.readReg m = s.readReg m

/-- Host accesses to registers: what BUSY forbids, and CTRL, STATUS and reads at any time.  Rests on R40. -/
def Obligations.BusyRegisterAccesses : Prop :=
  (∀ (s : State) (rest : List Event) (v : Word), s.status.busy = true →
    (s.events = .write 0#6 v :: rest →
      step s = .next { s with events := rest, status := { s.status with ovr := true } }) ∧
    (∀ n : BitVec 6, (4 ≤ n.toNat ∧ n.toNat ≤ 9) ∨ (12 ≤ n.toNat ∧ n.toNat ≤ 23) → s.events = .write n v :: rest →
      step s = .next { s with events := rest })) ∧
  (∀ (s : State) (rest : List Event) (v : Word), s.events = .write 2#6 v :: rest →
    step s = .next { s with events := rest, ie := v.getLsbD 0 }) ∧
  (∀ (s : State) (rest : List Event) (v : Word), s.events = .write 1#6 v :: rest →
    step s = .next { s with events := rest, status := { s.status with
      done := s.status.done && !v.getLsbD 1
      cfgerr := s.status.cfgerr && !v.getLsbD 2
      ovr := s.status.ovr && !v.getLsbD 3 } }) ∧
  (∀ (s : State) (rest : List Event) (n : BitVec 6), s.events = .read n :: rest →
    step s = .next { s with events := rest, hostData := State.readReg { s with events := rest } n })

/-- The interrupt line is IE and (DONE or CFGERR).  Rests on R295. -/
def Obligations.InterruptLineFollowsFlags : Prop :=
  (∀ s : State, s.irq = true ↔ s.ie = true ∧ (s.status.done = true ∨ s.status.cfgerr = true)) ∧
  (∀ (s : State) (b : Bool), State.irq { s with status := { s.status with ovr := b } } = s.irq) ∧
  (∀ (s : State) (v : Word) (rest : List Event), s.events = .write 1#6 v :: rest → v.getLsbD 1 = true →
    v.getLsbD 2 = true → ∃ t, step s = .next t ∧ t.irq = false) ∧
  (∀ (s : State) (rest : List Event), s.events = .write 2#6 0#32 :: rest →
    ∃ t, step s = .next t ∧ t.irq = false ∧ t.status = s.status) ∧
  (∀ (s : State) (rest : List Event), s.events = .reset :: rest → ∃ t, step s = .next t ∧ t.irq = false) ∧
  State.reset.ie = false ∧
  (∀ s : State, s.status.busy = false →
    let cleared (i : Instr) : Prop :=
      ∃ t, exec i s = .next t ∧ t.status.done = false ∧ (t.irq = true ↔ s.ie = true ∧ s.status.cfgerr = true)
    (∀ it st sc lw ro, cleared (resampleInstr it st sc lw ro)) ∧ (∀ lw ro, cleared (.hshift lw ro)) ∧
    (∀ st sc, s.shape.fbHi.toNat / 2 ^ 20 % 2 ^ 11 ≠ 0x7FF → s.shape.fcHi.toNat / 2 ^ 20 % 2 ^ 11 ≠ 0x7FF →
      cleared (tapgenInstr st sc)))

/-- What the host reads right after reset. It reads no value that log entry 2 chose. Rests on 10_state.md 8. Reset
values; 70_reset_and_hazards.md 1. Reset; 95_test_vectors.md 2.8 Registers, exceptions, reset. -/
def Obligations.ResetStateReads : Prop :=
  State.reset.readReg 1#6 = 0#32 ∧ State.reset.readReg 2#6 = 0#32 ∧ State.reset.readReg 0#6 = 0#32 ∧
  State.reset.readReg 10#6 = 0#32 ∧ State.reset.readReg 3#6 = 0x43520107#32 ∧ State.reset.readReg 11#6 = 0#32 ∧
  (∀ n : BitVec 6, 24 ≤ n.toNat → State.reset.readReg n = 0#32) ∧
  (State.reset.readReg 8#6).toNat < 2 ^ 16 ∧ (State.reset.readReg 9#6).toNat < 2 ^ 16 ∧
  State.reset.pending = [] ∧ State.reset.irq = false ∧ State.reset.status.busy = false ∧
  ∀ n : Nat, n ∈ State.reset.unwritten ↔ (4 ≤ n ∧ n ≤ 9) ∨ (12 ≤ n ∧ n ≤ 23)

/-- A reset abandons the running command; each pending store is performed whole or dropped. What is open here is
free in the form of log entries 5 and 9. Rests on 70_reset_and_hazards.md 1. Reset; 10_state.md 8. Reset
values. -/
def Obligations.ResetAbandonsCommand : Prop :=
  ∀ (s : State) (rest : List Event), s.events = .reset :: rest →
    ∃ t, step s = .next t ∧
      t.status = { busy := false, done := false, cfgerr := false, ovr := false, cause := 0#4 } ∧ t.ie = false ∧
      t.last = 0#32 ∧ t.pos = { group := 0#16, col := 0#12 } ∧ t.pending = [] ∧ t.irq = false ∧
      t.limits = s.limits ∧ t.events = rest ∧ t.raced = [] ∧ t.unwritten = State.reset.unwritten ∧
      (∃ kept n, kept.Sublist s.pending ∧ t.mem = spoil (performStores s.mem kept) n s.spoiled) ∧
      (s.raced = [] → s.spoiled = []) ∧
      (∀ a, (∀ st ∈ s.pending, st.covers a = false) → (∀ x ∈ s.spoiled, x.toNat ≠ a) →
        readByte t.mem a = readByte s.mem a)

/-- The bits of the STATUS word, with the live clamp flags.  Rests on 10_state.md 4. Flags and control registers;
42_kernels_point_linear.md 1. Rules common to every kernel; 45_hshift.md. -/
def Obligations.StatusWordShowsFlags : Prop :=
  (∀ s : State,
    (s.readReg 1#6).getLsbD 0 = s.status.busy ∧ (s.readReg 1#6).getLsbD 1 = s.status.done ∧
    (s.readReg 1#6).getLsbD 2 = s.status.cfgerr ∧ (s.readReg 1#6).getLsbD 3 = s.status.ovr ∧
    (s.readReg 1#6).extractLsb' 6 2 = 0#2 ∧ (s.readReg 1#6).extractLsb' 8 4 = s.status.cause ∧
    (s.readReg 1#6).extractLsb' 12 20 = 0#20 ∧
    (s.status.busy = false → (s.readReg 1#6).getLsbD 4 = false ∧ (s.readReg 1#6).getLsbD 5 = false)) ∧
  (∀ s : State, (∃ lw ro, s.last = hshiftWord lw ro) ∨ (∃ st sc, s.last = tapgenWord st sc) ∨ s.last = 0#32 →
    (s.readReg 1#6).getLsbD 4 = false ∧ (s.readReg 1#6).getLsbD 5 = false) ∧
  (∀ (s : State) it st sc lw ro, s.last = resampleWord it st sc lw ro → s.status.busy = true →
    let g := s.pos.group.toNat
    let h := s.height
    g < (if sc = .progressive then h else h / 2) →
    ((s.readReg 1#6).getLsbD 4 = true ↔
      match dispatch it st sc with
      | .ptP | .ptI | .linHalfP | .linHalfI | .linXfI => False
      | .linQP | .linEI | .cubSymP | .cubSymI => g = 0
      | .cubQP | .cub8I => g ≤ 1) ∧
    ((s.readReg 1#6).getLsbD 5 = true ↔
      match dispatch it st sc with
      | .ptP | .ptI => False
      | .linHalfP | .linQP => g = h - 1
      | .linHalfI | .linXfI | .linEI => g = h / 2 - 1
      | .cubSymP | .cubQP => h - 2 ≤ g
      | .cubSymI | .cub8I => h / 2 - 2 ≤ g))

/-- What a host access to the data memory does. How a race is noted, and the free value of a load, are the forms
of log entry 9; the refusal is that of log entry 8. Rests on 20_memory.md 4. Regions, bounds and ownership;
20_memory.md 5. Ordering; 93_implementation_defined.md 1. Cases. -/
def Obligations.HostMemoryAccesses : Prop :=
  let dstRows (s : State) (n : Option Nat) : Prop :=
    (n = none ∧ (s.status.busy = false ∨ s.last = 0#32 ∨ ∃ st sc, s.last = tapgenWord st sc)) ∨
    (s.status.busy = true ∧ (∃ it st sc lw ro, s.last = resampleWord it st sc lw ro) ∧ n = some (2 * s.height)) ∨
    (s.status.busy = true ∧ (∃ lw ro, s.last = hshiftWord lw ro) ∧ n = some s.height)
  (∀ (s : State) (n : Option Nat) (a : Word) (v : Byte) (rest : List Event), dstRows s n →
    s.events = .store a v :: rest → Memory.wf s.mem = true → mappedByte s.limits a = true →
    ∃ t, step s = .next t ∧ t = { s with events := rest, mem := t.mem, raced := t.raced } ∧
      (∀ b, readByte t.mem b = if b = a.toNat then v else readByte s.mem b) ∧
      (∀ x, x ∈ t.raced ↔ x ∈ s.raced ∨
        (x = a ∧ ∃ k, n = some k ∧ (s.srcView.holds a.toNat || (s.dstView k).holds a.toNat) = true))) ∧
  (∀ (s : State) (n : Option Nat) (a : Word) (rest : List Event), dstRows s n →
    s.events = .load a :: rest → mappedByte s.limits a = true →
    ((∀ k, n = some k → (s.dstView k).holds a.toNat = false) →
      step s = .next { s with events := rest, hostData := (readByte s.mem a.toNat).setWidth 32 }) ∧
    (∀ k, n = some k → (s.dstView k).holds a.toNat = true →
      step s = .next { s with
        events := rest, hostData := ((Config.freeWord s.free).setWidth 8).setWidth 32, free := s.free + 1 })) ∧
  (∀ (s : State) (a : Word) (v : Byte) (rest : List Event), mappedByte s.limits a = false →
    (s.events = .store a v :: rest → step s = .refused .platformUnmapped) ∧
    (s.events = .load a :: rest → step s = .refused .platformUnmapped))

/-- The port may perform any pending store at any time, whole.  Rests on 20_memory.md 5. Ordering;
41_lane_arithmetic.md 1. Memory operations. -/
def Obligations.PendingStorePerformedAlone : Prop :=
  ∀ (s : State) (k : Nat) (st : LaneStore) (rest : List Event), s.events = .perform k :: rest →
    s.pending[k]? = some st → s.admits .store st.addr st.data.length = true → Memory.wf s.mem = true →
    st.data.length ≤ 2 ^ 32 →
    ∃ t, step s = .next t ∧ t = { s with events := rest, mem := t.mem, pending := s.pending.eraseIdx k } ∧
      (∀ i b, st.data[i]? = some b → readByte t.mem (st.addr + BitVec.ofNat 32 i).toNat = b) ∧
      (∀ a, st.covers a = false → readByte t.mem a = readByte s.mem a)

/-- The order in which disjoint pending stores are performed does not matter.  Rests on 20_memory.md 5. Ordering. -/
def Obligations.StoreOrderDoesNotMatter : Prop :=
  ∀ (m : List Host.Cell) (xs ys : List LaneStore), Memory.wf m = true → xs.Pairwise LaneStore.apart → xs.Perm ys →
    performStores m xs = performStores m ys

/-- RESAMPLE and HSHIFT are accepted by an idle block, whatever the registers hold.  Rests on 10_state.md 4. Flags
and control registers; 30_encoding.md 1. The command word. -/
def Obligations.PlaneCommandAccepted : Prop :=
  (∀ it st sc lw ro (s : State) (w : Word), s.status.busy = false →
    encode (resampleInstr it st sc lw ro) = .cmd w →
    exec (resampleInstr it st sc lw ro) s = .next { s with
      last := w, status := { s.status with done := false, busy := true }, pos := { group := 0#16, col := 0#12 }, raced := [] }) ∧
  (∀ lw ro (s : State) (w : Word), s.status.busy = false → encode (.hshift lw ro) = .cmd w →
    exec (.hshift lw ro) s = .next { s with
      last := w, status := { s.status with done := false, busy := true }, pos := { group := 0#16, col := 0#12 }, raced := [] })

/-- NOP is accepted and completed in one step.  Rests on 44_dispatch_and_commands.md 3. NOP. -/
def Obligations.NopCompletes : Prop :=
  ∀ s : State, s.status.busy = false → s.pending = [] →
    ∃ t, exec .nop s = .next t ∧
      t = { s with
        last := 0#32, status := { s.status with done := true }, pos := { group := 0#16, col := 0#12 }, raced := [] } ∧
      t.irq = s.ie

/-- TAPGEN is accepted with finite shapes and rejected with cause 4 otherwise.  Rests on 40_tap_generator.md 3.
The command; 30_encoding.md 1. The command word; 60_exceptions.md 1. The one synchronous event: CFGERR. -/
def Obligations.TapgenAcceptedOrRejected : Prop :=
  ∀ st sc (s : State) (w : Word), s.status.busy = false → encode (tapgenInstr st sc) = .cmd w →
    (s.shape.fbHi.toNat / 2 ^ 20 % 2 ^ 11 ≠ 0x7FF ∧ s.shape.fcHi.toNat / 2 ^ 20 % 2 ^ 11 ≠ 0x7FF →
      exec (tapgenInstr st sc) s = .next { s with
        last := w, status := { s.status with done := false, busy := true }, pos := { group := 0#16, col := 0#12 }, raced := [] }) ∧
    (s.shape.fbHi.toNat / 2 ^ 20 % 2 ^ 11 = 0x7FF ∨ s.shape.fcHi.toNat / 2 ^ 20 % 2 ^ 11 = 0x7FF →
      exec (tapgenInstr st sc) s = .next { s with status := { s.status with cfgerr := true, cause := 4#4 } })

/-- TAPGEN writes its taps and completes. The evaluation is the exact default of R137 (log entry 14). Rests on
40_tap_generator.md 1. Inputs; 40_tap_generator.md 2. The filter; 40_tap_generator.md 3. The command. -/
def Obligations.TapgenWritesTaps : Prop :=
  ∀ st sc (s : State), s.status.busy = true → s.pending = [] →
    let val (v : BitVec 64) : ℚ :=
      let sign : ℚ := if v.toNat / 2 ^ 63 = 1 then -1 else 1
      let e : Nat := v.toNat / 2 ^ 52 % 2 ^ 11
      let f : Nat := v.toNat % 2 ^ 52
      if e = 0 then sign * (2 : ℚ) ^ (-1074 : Int) * (f : ℚ) else sign * (2 : ℚ) ^ ((e : Int) - 1075) * (2 ^ 52 + (f : ℚ))
    let b := val (s.shape.fbHi ++ s.shape.fbLo)
    let c := val (s.shape.fcHi ++ s.shape.fcLo)
    let k (t : ℚ) : ℚ :=
      if t < 1 then ((12 - 9 * b - 6 * c) * t ^ 3 + (-18 + 12 * b + 6 * c) * t ^ 2 + (6 - 2 * b)) / 6
      else ((-b - 6 * c) * t ^ 3 + (6 * b + 30 * c) * t ^ 2 + (-12 * b - 48 * c) * t + (8 * b + 24 * c)) / 6
    let tap (t : ℚ) : Int := (if k t < 0 then -1 else 1) * ⌊|k t| * 1024 + 1 / 2⌋
    let ds : List ℚ :=
      if st = .s0 ∨ st = .s3 then [1 / 2, 3 / 2]
      else if sc = .progressive then [7 / 4, 3 / 4, 1 / 4, 5 / 4]
      else if st = .s1 then [7 / 4, 3 / 4, 1 / 4, 5 / 4, 5 / 4, 1 / 4, 3 / 4, 7 / 4]
      else [15 / 8, 7 / 8, 1 / 8, 9 / 8, 11 / 8, 3 / 8, 5 / 8, 13 / 8]
    (∀ d ∈ ds, -32768 ≤ tap d ∧ tap d ≤ 32767) →
    ∃ t, exec (tapgenInstr st sc) s = .next t ∧
      t = { s with
        coefs := t.coefs
        unwritten := t.unwritten
        raced := []
        status := { s.status with busy := false, done := true }
        pos := { group := 0#16, col := 0#12 } } ∧
      (∀ n, n ∈ t.unwritten ↔ n ∈ s.unwritten ∧ ¬ (16 ≤ n ∧ n < 16 + ds.length)) ∧
      (∀ j d, ds[j]? = some d → (t.coefs.get j).toInt = tap d) ∧
      (∀ j, ds.length ≤ j → j < 8 → t.coefs.get j = s.coefs.get j)

/-- TAPGEN with a tap that does not fit leaves free values and completes. The model's choice (log entry 6): 93 U3
says the hardware sets DONE and leaves unspecified values there. Rests on 93_implementation_defined.md 1.
Cases; 40_tap_generator.md 3. The command. -/
def Obligations.TapgenOverflowLeavesFreeValues : Prop :=
  ∀ st sc (s : State), s.status.busy = true → s.pending = [] →
    (∃ x ∈ tapSet st sc (s.shape.fbHi ++ s.shape.fbLo) (s.shape.fcHi ++ s.shape.fcLo), x < -32768 ∨ 32767 < x) →
    let n := if st = .s0 ∨ st = .s3 then 2 else if sc = .progressive then 4 else 8
    ∃ t, exec (tapgenInstr st sc) s = .next t ∧
      t = { s with
        coefs := t.coefs
        unwritten := t.unwritten
        raced := []
        free := s.free + n
        status := { s.status with busy := false, done := true }
        pos := { group := 0#16, col := 0#12 } } ∧
      (∀ k, k ∈ t.unwritten ↔ k ∈ s.unwritten ∧ ¬ (16 ≤ k ∧ k < 16 + n)) ∧
      (∀ j, j < n → t.coefs.get j = (Config.freeWord (s.free + j)).setWidth 16) ∧
      (∀ j, n ≤ j → j < 8 → t.coefs.get j = s.coefs.get j)

/-- The tap sets of b = 0, c = 0.5, and of signed and subnormal shapes.  Rests on 40_tap_generator.md 3. The
command; 95_test_vectors.md 2.1 TAPGEN. -/
def Obligations.TapgenGoldenVectors : Prop :=
  ∀ sc, tapSet .s0 sc 0#64 0x3FE0000000000000#64 = [576, -64] ∧
    tapSet .s3 sc 0#64 0x3FE0000000000000#64 = [576, -64] ∧
    tapSet .s1 .progressive 0#64 0x3FE0000000000000#64 = [-24, 232, 888, -72] ∧
    tapSet .s2 .progressive 0#64 0x3FE0000000000000#64 = [-24, 232, 888, -72] ∧
    tapSet .s1 .interlaced 0#64 0x3FE0000000000000#64 = [-24, 232, 888, -72, -72, 888, 232, -24] ∧
    tapSet .s2 .interlaced 0#64 0x3FE0000000000000#64 = [-7, 93, 987, -49, -75, 745, 399, -45] ∧
    tapSet .s1 .progressive 0x8000000000000000#64 0x3FE0000000000000#64 = [-24, 232, 888, -72] ∧
    tapSet .s1 .progressive 1#64 0x3FE0000000000000#64 = [-24, 232, 888, -72] ∧
    tapSet .s1 .progressive 0x3FE0000000000000#64 0x3FD0000000000000#64 = [-11, 277, 757, 0] ∧
    tapSet .s0 sc 0#64 0xBFE0000000000000#64 = [448, 64] ∧
    patternValue 0xBFE0000000000000#64 = -1 / 2 ∧ patternValue 1#64 = 1 / 2 ^ 1074 ∧
    patternValue 0x8000000000000001#64 = -1 / 2 ^ 1074

/-- For shapes in 0 to 1 every tap lies between -150 and 994. The evaluation is the exact default of R137 (log
entry 14). Rests on 40_tap_generator.md 3. The command. -/
def Obligations.TapgenTypicalRange : Prop :=
  ∀ st sc (fb fc : BitVec 64), 0 ≤ patternValue fb → patternValue fb ≤ 1 → 0 ≤ patternValue fc → patternValue fc ≤ 1 →
    ∀ x ∈ tapSet st sc fb fc, -150 ≤ x ∧ x ≤ 994

/-- The four taps of one output row sum to within 2 of 1024. The evaluation is the exact default of R137 (log
entry 14). Rests on 43_kernels_cubic.md 3. Properties; 40_tap_generator.md 2. The filter. -/
def Obligations.TapSetsSumNear1024 : Prop :=
  ∀ (st : Siting) (sc : Scan) (fb fc : BitVec 64),
    let near (x : Int) : Prop := 1022 ≤ x ∧ x ≤ 1026
    match tapSet st sc fb fc with
    | [a, b] => near (2 * (a + b))
    | [a, b, c, d] => near (a + b + c + d)
    | [a, b, c, d, e, f, g, h] => near (a + b + c + d) ∧ near (e + f + g + h)
    | _ => False

/-- One step of K_PT_P: each source row becomes two rows.  Rests on 42_kernels_point_linear.md 2. Point kernels;
44_dispatch_and_commands.md 4. The sequencer. -/
def Obligations.PointProgressiveStep : Prop :=
  ∀ (i : Instr) (s : State) lw ro, i = .resamplePointS0P lw ro ∨ i = .resamplePointS1P lw ro ∨ i = .resamplePointS2P lw ro ∨ i = .resamplePointS3P lw ro →
    s.ready lw ro (2 * s.height) = true → s.pos.group.toNat < s.height →
    let g := s.pos.group.toNat
    let S := s.sample lw ro
    stepsTo i s lw ro
      [(2 * g, fun x => S g x), (2 * g + 1, fun x => S g x)]

/-- One step of K_PT_I: each field row becomes two rows of its field.  Rests on 42_kernels_point_linear.md 2.
Point kernels; 44_dispatch_and_commands.md 4. The sequencer. -/
def Obligations.PointInterlacedStep : Prop :=
  ∀ (i : Instr) (s : State) lw ro, i = .resamplePointS0I lw ro ∨ i = .resamplePointS1I lw ro ∨ i = .resamplePointS2I lw ro ∨ i = .resamplePointS3I lw ro →
    s.ready lw ro (2 * s.height) = true → s.pos.group.toNat < s.height / 2 →
    let k := s.pos.group.toNat
    let S := s.sample lw ro
    stepsTo i s lw ro
      [(4 * k, fun x => S (2 * k) x), (4 * k + 1, fun x => S (2 * k + 1) x),
        (4 * k + 2, fun x => S (2 * k) x), (4 * k + 3, fun x => S (2 * k + 1) x)]

/-- One step of K_LIN_HALF_P: the row, and its average with the next.  Rests on 42_kernels_point_linear.md 3.
Linear kernels; 44_dispatch_and_commands.md 4. The sequencer. -/
def Obligations.LinearHalfProgressiveStep : Prop :=
  ∀ (i : Instr) (s : State) lw ro, i = .resampleLinearS0P lw ro ∨ i = .resampleLinearS1P lw ro ∨ i = .resampleLinearS3P lw ro →
    s.ready lw ro (2 * s.height) = true → s.pos.group.toNat < s.height →
    let H := s.height
    let g := s.pos.group.toNat
    let S := s.sample lw ro
    stepsTo i s lw ro
      [(2 * g, fun x => S g x), (2 * g + 1, fun x => (S g x + S (min (g + 1) (H - 1)) x + 1) / 2)]

/-- One step of K_LIN_HALF_I: the same in each field.  Rests on 42_kernels_point_linear.md 3. Linear kernels;
44_dispatch_and_commands.md 4. The sequencer. -/
def Obligations.LinearHalfInterlacedStep : Prop :=
  ∀ (i : Instr) (s : State) lw ro, i = .resampleLinearS1I lw ro →
    s.ready lw ro (2 * s.height) = true → s.pos.group.toNat < s.height / 2 →
    let H := s.height
    let k := s.pos.group.toNat
    let S := s.sample lw ro
    stepsTo i s lw ro
      [(4 * k, fun x => S (2 * k) x), (4 * k + 1, fun x => S (2 * k + 1) x),
        (4 * k + 2, fun x => (S (2 * k) x + S (2 * min (k + 1) (H / 2 - 1)) x + 1) / 2),
        (4 * k + 3, fun x => (S (2 * k + 1) x + S (2 * min (k + 1) (H / 2 - 1) + 1) x + 1) / 2)]

/-- One step of K_LIN_XF_I: thirds between a bottom-field row and the next top-field row. The recipe is the
default of R189, which the model takes as fixed (log entry 13). Rests on 42_kernels_point_linear.md 3. Linear
kernels; 44_dispatch_and_commands.md 4. The sequencer. -/
def Obligations.LinearCrossFieldStep : Prop :=
  ∀ (i : Instr) (s : State) lw ro, i = .resampleLinearS0I lw ro ∨ i = .resampleLinearS3I lw ro →
    s.ready lw ro (2 * s.height) = true → s.pos.group.toNat < s.height / 2 →
    let H := s.height
    let k := s.pos.group.toNat
    let S := s.sample lw ro
    stepsTo i s lw ro
      [(4 * k, fun x => S (2 * k) x), (4 * k + 1, fun x => S (2 * k + 1) x),
        (4 * k + 2, fun x => (171 * S (2 * k + 1) x + 85 * S (min (2 * k + 2) (H - 1)) x + 128) / 256),
        (4 * k + 3, fun x => (85 * S (2 * k + 1) x + 171 * S (min (2 * k + 2) (H - 1)) x + 128) / 256)]

/-- One step of K_LIN_Q_P: 3:1 toward the previous and the next row.  Rests on 42_kernels_point_linear.md 3.
Linear kernels; 44_dispatch_and_commands.md 4. The sequencer. -/
def Obligations.LinearQuarterProgressiveStep : Prop :=
  ∀ (i : Instr) (s : State) lw ro, i = .resampleLinearS2P lw ro →
    s.ready lw ro (2 * s.height) = true → s.pos.group.toNat < s.height →
    let H := s.height
    let g := s.pos.group.toNat
    let S := s.sample lw ro
    stepsTo i s lw ro
      [(2 * g, fun x => (3 * S g x + S (g - 1) x + 2) / 4),
        (2 * g + 1, fun x => (3 * S g x + S (min (g + 1) (H - 1)) x + 2) / 4)]

/-- One step of K_LIN_E_I: 7:1 and 5:3 in each field, mirrored between fields.  Rests on
42_kernels_point_linear.md 3. Linear kernels; 44_dispatch_and_commands.md 4. The sequencer. -/
def Obligations.LinearEighthInterlacedStep : Prop :=
  ∀ (i : Instr) (s : State) lw ro, i = .resampleLinearS2I lw ro →
    s.ready lw ro (2 * s.height) = true → s.pos.group.toNat < s.height / 2 →
    let H := s.height
    let k := s.pos.group.toNat
    let S := s.sample lw ro
    stepsTo i s lw ro
      [(4 * k, fun x => (7 * S (2 * k) x + S (2 * (k - 1)) x + 4) / 8),
        (4 * k + 1, fun x => (5 * S (2 * k + 1) x + 3 * S (2 * (k - 1) + 1) x + 4) / 8),
        (4 * k + 2, fun x => (5 * S (2 * k) x + 3 * S (2 * min (k + 1) (H / 2 - 1)) x + 4) / 8),
        (4 * k + 3, fun x => (7 * S (2 * k + 1) x + S (2 * min (k + 1) (H / 2 - 1) + 1) x + 4) / 8)]

/-- One step of K_CUB_SYM_P: the row, and the centred four-tap sum.  Rests on 43_kernels_cubic.md 2. The kernels;
44_dispatch_and_commands.md 4. The sequencer. -/
def Obligations.CubicSymmetricProgressiveStep : Prop :=
  ∀ (i : Instr) (s : State) lw ro, i = .resampleCubicS0P lw ro ∨ i = .resampleCubicS3P lw ro →
    s.ready lw ro (2 * s.height) = true → s.pos.group.toNat < s.height →
    let H := s.height
    let g := s.pos.group.toNat
    let S := s.sample lw ro
    let C := s.coefs
    stepsTo i s lw ro
      [(2 * g, fun x => S g x),
        (2 * g + 1, fun x => tapSum C.c1 C.c0 C.c0 C.c1
          (S (g - 1) x) (S g x) (S (min (g + 1) (H - 1)) x) (S (min (g + 2) (H - 1)) x))]

/-- One step of K_CUB_SYM_I: the same in each field.  Rests on 43_kernels_cubic.md 2. The kernels;
44_dispatch_and_commands.md 4. The sequencer. -/
def Obligations.CubicSymmetricInterlacedStep : Prop :=
  ∀ (i : Instr) (s : State) lw ro, i = .resampleCubicS0I lw ro ∨ i = .resampleCubicS3I lw ro →
    s.ready lw ro (2 * s.height) = true → s.pos.group.toNat < s.height / 2 →
    let H := s.height
    let k := s.pos.group.toNat
    let S := s.sample lw ro
    let C := s.coefs
    stepsTo i s lw ro
      [(4 * k, fun x => S (2 * k) x), (4 * k + 1, fun x => S (2 * k + 1) x),
        (4 * k + 2, fun x => tapSum C.c1 C.c0 C.c0 C.c1 (S (2 * (k - 1)) x) (S (2 * k) x)
          (S (2 * min (k + 1) (H / 2 - 1)) x) (S (2 * min (k + 2) (H / 2 - 1)) x)),
        (4 * k + 3, fun x => tapSum C.c1 C.c0 C.c0 C.c1 (S (2 * (k - 1) + 1) x) (S (2 * k + 1) x)
          (S (2 * min (k + 1) (H / 2 - 1) + 1) x) (S (2 * min (k + 2) (H / 2 - 1) + 1) x))]

/-- One step of K_CUB_Q_P: two four-tap sums, the lower in reverse order.  Rests on 43_kernels_cubic.md 2. The
kernels; 44_dispatch_and_commands.md 4. The sequencer. -/
def Obligations.CubicQuarterProgressiveStep : Prop :=
  ∀ (i : Instr) (s : State) lw ro, i = .resampleCubicS1P lw ro ∨ i = .resampleCubicS2P lw ro →
    s.ready lw ro (2 * s.height) = true → s.pos.group.toNat < s.height →
    let H := s.height
    let g := s.pos.group.toNat
    let S := s.sample lw ro
    let C := s.coefs
    stepsTo i s lw ro
      [(2 * g, fun x => tapSum C.c0 C.c1 C.c2 C.c3
          (S (g - 2) x) (S (g - 1) x) (S g x) (S (min (g + 1) (H - 1)) x)),
        (2 * g + 1, fun x => tapSum C.c3 C.c2 C.c1 C.c0
          (S (g - 1) x) (S g x) (S (min (g + 1) (H - 1)) x) (S (min (g + 2) (H - 1)) x))]

/-- One step of K_CUB_8_I: the eight registers mirrored between the fields.  Rests on 43_kernels_cubic.md 2. The
kernels; 44_dispatch_and_commands.md 4. The sequencer. -/
def Obligations.CubicEightTapInterlacedStep : Prop :=
  ∀ (i : Instr) (s : State) lw ro, i = .resampleCubicS1I lw ro ∨ i = .resampleCubicS2I lw ro →
    s.ready lw ro (2 * s.height) = true → s.pos.group.toNat < s.height / 2 →
    let H := s.height
    let k := s.pos.group.toNat
    let S := s.sample lw ro
    let C := s.coefs
    stepsTo i s lw ro
      [(4 * k, fun x => tapSum C.c0 C.c1 C.c2 C.c3 (S (2 * (k - 2)) x) (S (2 * (k - 1)) x) (S (2 * k) x)
          (S (2 * min (k + 1) (H / 2 - 1)) x)),
        (4 * k + 1, fun x => tapSum C.c7 C.c6 C.c5 C.c4 (S (2 * (k - 2) + 1) x) (S (2 * (k - 1) + 1) x)
          (S (2 * k + 1) x) (S (2 * min (k + 1) (H / 2 - 1) + 1) x)),
        (4 * k + 2, fun x => tapSum C.c4 C.c5 C.c6 C.c7 (S (2 * (k - 1)) x) (S (2 * k) x)
          (S (2 * min (k + 1) (H / 2 - 1)) x) (S (2 * min (k + 2) (H / 2 - 1)) x)),
        (4 * k + 3, fun x => tapSum C.c3 C.c2 C.c1 C.c0 (S (2 * (k - 1) + 1) x) (S (2 * k + 1) x)
          (S (2 * min (k + 1) (H / 2 - 1) + 1) x) (S (2 * min (k + 2) (H / 2 - 1) + 1) x))]

/-- One step of HSHIFT: three parts current, one part left neighbour, with the carry.  Rests on 45_hshift.md (the
lane form); 44_dispatch_and_commands.md 4. The sequencer. -/
def Obligations.HshiftStepFilters : Prop :=
  ∀ (s : State) lw ro, s.ready lw ro s.height = true → s.pos.group.toNat < s.height →
    let r := s.pos.group.toNat
    let S := s.sample lw ro r
    let left (x : Nat) : Nat :=
      if x = 0 then (if s.pos.col = 0#12 then S 0 else s.carry.toNat) else S (x - 1)
    exec (.hshift lw ro) s = .next { s.afterRows lw ro s.height [(r, fun x => (3 * S x + left x + 2) / 4)] with
      carry := BitVec.ofNat 8 (S (laneBytes lw - 1)) }

/-- Completion of RESAMPLE and HSHIFT: every pending store is performed and DONE is set. That completion itself
performs what is pending, in the step that sets DONE, is the choice of log entry 10: R259 says that it waits
until PENDING is empty. The free values are those of log entry 9. Rests on 44_dispatch_and_commands.md 4. The
sequencer; 20_memory.md 4. Regions, bounds and ownership; 20_memory.md 5. Ordering;
93_implementation_defined.md 1. Cases. -/
def Obligations.PlaneCommandCompletes : Prop :=
  let done (i : Instr) (s : State) (touched : Nat → Prop) : Prop :=
    ∃ t, exec i s = .next t ∧
      t = { s with
        mem := t.mem
        free := t.free
        raced := []
        pending := []
        pos := { group := 0#16, col := 0#12 }
        status := { s.status with busy := false, done := true } } ∧
      (s.raced = [] → t.free = s.free) ∧
      (∀ a, (∀ st ∈ s.pending, st.covers a = false) → ¬ touched a → readByte t.mem a = readByte s.mem a) ∧
      (Memory.wf s.mem = true → s.pending.Pairwise LaneStore.apart → (∀ st ∈ s.pending, st.data.length ≤ 2 ^ 32) →
        ∀ st ∈ s.pending, ∀ j b, st.data[j]? = some b → ¬ touched (st.addr + BitVec.ofNat 32 j).toNat →
          readByte t.mem (st.addr + BitVec.ofNat 32 j).toNat = b) ∧
      (Memory.wf s.mem = true → ∀ a, touched a →
        ∃ n, s.free ≤ n ∧ n < t.free ∧ readByte t.mem a = (Config.freeWord n).setWidth 8)
  (∀ it st sc lw ro (s : State), s.status.busy = true →
    brokenPrecondition (laneBytes lw) s.srcView (s.dstView (2 * s.height)) = none →
    (if sc = .progressive then s.height else s.height / 2) ≤ s.pos.group.toNat →
    (∀ x ∈ s.pending, s.admits .store x.addr x.data.length = true) →
    done (resampleInstr it st sc lw ro) s fun a =>
      ∃ j < 2 * s.height, ∃ x < s.width, ((s.dstView (2 * s.height)).ordered ro).sampleAddr j x = a ∧
        (((s.dstView (2 * s.height)).ordered ro).byteAddr j x ∈ s.raced ∨
          ∃ r ∈ (dispatch it st sc).reads s.height j, (s.srcView.ordered ro).byteAddr r x ∈ s.raced)) ∧
  (∀ lw ro (s : State), s.status.busy = true →
    brokenPrecondition (laneBytes lw) s.srcView (s.dstView s.height) = none → s.height ≤ s.pos.group.toNat →
    (∀ x ∈ s.pending, s.admits .store x.addr x.data.length = true) →
    done (.hshift lw ro) s fun a =>
      ∃ r < s.height, ∃ x < s.width, ((s.dstView s.height).ordered ro).sampleAddr r x = a ∧
        (((s.dstView s.height).ordered ro).byteAddr r x ∈ s.raced ∨
          (s.srcView.ordered ro).byteAddr r x ∈ s.raced ∨ (s.srcView.ordered ro).byteAddr r (x - 1) ∈ s.raced))

/-- An access the port never admits leaves the sequencer waiting. The map is the list of log entry 8; loads need a
readable byte and stores a writable one (R79 d). Rests on 44_dispatch_and_commands.md 4. The sequencer;
60_exceptions.md 2. Preconditions nothing checks. -/
def Obligations.UnadmittedAccessWaits : Prop :=
  (∀ it st sc lw ro (s : State), s.status.busy = true →
    brokenPrecondition (laneBytes lw) s.srcView (s.dstView (2 * s.height)) = none →
    ((s.pos.group.toNat < (if sc = .progressive then s.height else s.height / 2) ∧
        ∃ r ∈ (dispatch it st sc).sources s.height s.pos.group.toNat,
          s.admits .load ((s.srcView.ordered ro).laneAddr (laneBytes lw) r s.pos.col.toNat) (laneBytes lw) = false) ∨
      ((if sc = .progressive then s.height else s.height / 2) ≤ s.pos.group.toNat ∧
        ∃ x ∈ s.pending, s.admits .store x.addr x.data.length = false)) →
    exec (resampleInstr it st sc lw ro) s = .next s) ∧
  (∀ lw ro (s : State), s.status.busy = true →
    brokenPrecondition (laneBytes lw) s.srcView (s.dstView s.height) = none →
    ((s.pos.group.toNat < s.height ∧
        s.admits .load ((s.srcView.ordered ro).laneAddr (laneBytes lw) s.pos.group.toNat s.pos.col.toNat) (laneBytes lw) = false) ∨
      (s.height ≤ s.pos.group.toNat ∧ ∃ x ∈ s.pending, s.admits .store x.addr x.data.length = false)) →
    exec (.hshift lw ro) s = .next s)

/-- A step with a broken geometry precondition is refused by the name of the first one. The names and their order
are those of log entry 7. Rests on 60_exceptions.md 2. Preconditions nothing checks; 20_memory.md 3.
Alignment; 20_memory.md 4. Regions, bounds and ownership. -/
def Obligations.BrokenPreconditionRefused : Prop :=
  ∀ (i : Instr) (s : State) (lw : LaneWidth) (dstRows : Nat), s.status.busy = true →
    ((∃ it st sc ro, i = resampleInstr it st sc lw ro) ∧ dstRows = 2 * s.height) ∨
      ((∃ ro, i = .hshift lw ro) ∧ dstRows = s.height) →
    let L := laneBytes lw
    let W := s.ops.width.toNat
    let H := s.ops.height.toNat
    let inSrc (a : Int) : Prop :=
      ∃ r < H, ∃ x < W, a = s.ops.srcBase.toNat + (r : Int) * s.ops.srcStride.toInt + x
    let inDst (a : Int) : Prop :=
      ∃ r < dstRows, ∃ x < W, a = s.ops.dstBase.toNat + (r : Int) * s.ops.dstStride.toInt + x
    let p1 := L ≤ W ∧ L ∣ W
    let p2 := 4 ≤ H ∧ 4 ∣ H
    let p3 := L ∣ s.ops.srcBase.toNat ∧ L ∣ s.ops.dstBase.toNat ∧ (L : Int) ∣ s.ops.srcStride.toInt ∧
      (L : Int) ∣ s.ops.dstStride.toInt
    let p4 := W ≤ s.ops.srcStride.toInt.natAbs ∧ W ≤ s.ops.dstStride.toInt.natAbs
    let p5 := ∀ a, inSrc a ∨ inDst a → 0 ≤ a ∧ a < 2 ^ 32
    let p6 := ∀ a, ¬ (inSrc a ∧ inDst a)
    (¬ p1 → exec i s = .refused .badWidth) ∧
    (p1 ∧ ¬ p2 → exec i s = .refused .badHeight) ∧
    (p1 ∧ p2 ∧ ¬ p3 → exec i s = .refused .misalignedPlane) ∧
    (p1 ∧ p2 ∧ p3 ∧ ¬ p4 → exec i s = .refused .shortStride) ∧
    (p1 ∧ p2 ∧ p3 ∧ p4 ∧ ¬ p5 → exec i s = .refused .regionWraps) ∧
    (p1 ∧ p2 ∧ p3 ∧ p4 ∧ p5 ∧ ¬ p6 → exec i s = .refused .planesOverlap) ∧
    (p1 ∧ p2 ∧ p3 ∧ p4 ∧ p5 ∧ p6 → ∃ t, exec i s = .next t)

/-- What no instruction changes, for all fifty.  Rests on 44_dispatch_and_commands.md 5. What this command set
does not have; 40_tap_generator.md 3. The command; 41_lane_arithmetic.md. -/
def Obligations.InstructionFrame : Prop :=
  ∀ (i : Instr) (s t : State), exec i s = .next t →
    t.ie = s.ie ∧ t.ops = s.ops ∧ t.shape = s.shape ∧ t.status.ovr = s.status.ovr ∧ t.limits = s.limits ∧
    t.events = s.events ∧ t.hostData = s.hostData ∧
    ((∀ st sc, i ≠ tapgenInstr st sc) →
      t.coefs = s.coefs ∧ t.unwritten = s.unwritten ∧ (s.raced = [] → t.free = s.free) ∧
      t.status.cfgerr = s.status.cfgerr ∧ t.status.cause = s.status.cause) ∧
    ((∀ lw ro, i ≠ .hshift lw ro) → t.carry = s.carry) ∧
    t.lane = { s.lane with result := t.lane.result } ∧
    (∀ w, encode i = .cmd w → t.lane = s.lane) ∧
    (∀ w, encode i = .lop w → t.status = s.status ∧ t.last = s.last ∧ t.pos = s.pos ∧ t.mem = s.mem ∧
      (i ≠ .stl → t.pending = s.pending)) ∧
    (t.raced = s.raced ∨ t.raced = []) ∧
    (∀ a, (∀ st ∈ s.pending, st.covers a = false) → s.raced = [] ∨ (s.dstView (2 * s.height)).holds a = false →
      readByte t.mem a = readByte s.mem a)

/-- Every step keeps the invariant of the software-visible machine. The range of POS includes NG (log entry 11),
and the queue is that of log entry 4. Rests on 10_state.md 3. The position register (the block's program
counter); 10_state.md 6. Hidden state; 60_exceptions.md 1. The one synchronous event: CFGERR. -/
def Obligations.StepKeepsInvariant : Prop :=
  ∀ s t : State, s.Inv → step s = .next t → t.Inv

/-- The reset state meets the invariant.  Rests on 10_state.md 8. Reset values. -/
def Obligations.ResetMeetsInvariant : Prop :=
  State.reset.Inv

/-- Every pending store is a whole lane of the destination of the running command. The queue is that of log entry
4. Rests on 20_memory.md 4. Regions, bounds and ownership. -/
def Obligations.StoresStayInDestination : Prop :=
  State.reset.pendingInDestination ∧
  ∀ s t : State, s.Inv → s.pendingInDestination → step s = .next t → t.pendingInDestination

/-- AVG2 and AVG4 on the ports of the lane unit. The ports are those of log entry 15. Rests on
41_lane_arithmetic.md 2. Averages. -/
def Obligations.LaneAverages : Prop :=
  ∀ s : State,
    givesResult .avg2 s (fun r => ∀ i < s.laneL, byteAt r i = (byteAt s.lane.a i + byteAt s.lane.b i + 1) / 2) ∧
    givesResult .avg4 s (fun r => ∀ i < s.laneL,
      byteAt r i = (byteAt s.lane.a i + byteAt s.lane.b i + byteAt s.lane.c i + byteAt s.lane.d i + 2) / 4)

/-- WIDENLO, WIDENHI, ILV16LO and ILV16HI. The ports are those of log entry 15. Rests on 41_lane_arithmetic.md 3.
Widening and interleaving. -/
def Obligations.LaneWidenAndInterleave : Prop :=
  ∀ s : State, let L := s.laneL
    givesResult .widenLo s (fun r => ∀ i < L / 2, (halfAt r i).toNat = byteAt s.lane.a i) ∧
    givesResult .widenHi s (fun r => ∀ i < L / 2, (halfAt r i).toNat = byteAt s.lane.a (L / 2 + i)) ∧
    givesResult .ilv16Lo s (fun r => ∀ j < L / 4,
      halfAt r (2 * j) = halfAt s.lane.a j ∧ halfAt r (2 * j + 1) = halfAt s.lane.b j) ∧
    givesResult .ilv16Hi s (fun r => ∀ j < L / 4,
      halfAt r (2 * j) = halfAt s.lane.a (L / 4 + j) ∧ halfAt r (2 * j + 1) = halfAt s.lane.b (L / 4 + j))

/-- ADD16, ADD32, MADD and SRA32. The ports are those of log entry 15. Rests on 41_lane_arithmetic.md 4. Add,
multiply-accumulate, shift, saturate-pack. -/
def Obligations.LaneAddMultiplyShift : Prop :=
  ∀ s : State, let L := s.laneL
    givesResult .add16 s (fun r => ∀ i < L / 2,
      (halfAt r i).toNat = ((halfAt s.lane.a i).toNat + (halfAt s.lane.b i).toNat) % 2 ^ 16) ∧
    givesResult .add32 s (fun r => ∀ j < L / 4,
      (wordAt r j).toNat = ((wordAt s.lane.a j).toNat + (wordAt s.lane.b j).toNat) % 2 ^ 32) ∧
    givesResult .madd s (fun r => ∀ j < L / 4,
      wordAt r j = BitVec.ofInt 32 ((halfAt s.lane.a (2 * j)).toInt * (halfAt s.lane.b (2 * j)).toInt +
        (halfAt s.lane.a (2 * j + 1)).toInt * (halfAt s.lane.b (2 * j + 1)).toInt)) ∧
    ∀ n, givesResult (.sra32 n) s (fun r => ∀ j < L / 4, (wordAt r j).toInt = (wordAt s.lane.a j).toInt / 2 ^ n)

/-- PACKS32 and PACKUS16 saturate. The ports are those of log entry 15. Rests on 41_lane_arithmetic.md 4. Add,
multiply-accumulate, shift, saturate-pack. -/
def Obligations.LaneSaturatingPacks : Prop :=
  ∀ s : State, let L := s.laneL
    givesResult .packs32 s (fun r => ∀ j < L / 4,
      (halfAt r j).toInt = min (max (wordAt s.lane.a j).toInt (-32768)) 32767 ∧
      (halfAt r (L / 4 + j)).toInt = min (max (wordAt s.lane.b j).toInt (-32768)) 32767) ∧
    givesResult .packus16 s (fun r => ∀ i < L / 2,
      (byteAt r i : Int) = min (max (halfAt s.lane.a i).toInt 0) 255 ∧
      (byteAt r (L / 2 + i) : Int) = min (max (halfAt s.lane.b i).toInt 0) 255)

/-- BCAST and SHIFTIN. The ports are those of log entry 15. Rests on 41_lane_arithmetic.md 4. Add, multiply-
accumulate, shift, saturate-pack; 41_lane_arithmetic.md 5. Lane layout. -/
def Obligations.LaneBroadcastAndShiftIn : Prop :=
  ∀ s : State, let L := s.laneL
    givesResult .bcast s (fun r => ∀ j < L / 4,
      halfAt r (2 * j) = s.lane.p0 ∧ halfAt r (2 * j + 1) = s.lane.p1 ∧ wordAt r j = s.lane.p1 ++ s.lane.p0) ∧
    givesResult .shiftIn s (fun r => byteAt r 0 = s.lane.cy.toNat ∧
      ∀ i, 1 ≤ i → i < L → byteAt r i = byteAt s.lane.a (i - 1))

/-- LDL and STL. The ports are those of log entry 15. The refusal is that of log entry 17. Rests on
41_lane_arithmetic.md 1. Memory operations; 20_memory.md 3. Alignment. -/
def Obligations.LaneLoadAndStore : Prop :=
  ∀ s : State, let L := s.laneL
    (s.lane.addr.toNat % L = 0 → s.admits .load s.lane.addr L = true →
      givesResult .ldl s (fun r => ∀ i < L, byteAt r i = (readByte s.mem (s.lane.addr + BitVec.ofNat 32 i).toNat).toNat)) ∧
    (s.lane.addr.toNat % L = 0 → s.admits .load s.lane.addr L = false → exec .ldl s = .next s) ∧
    (s.lane.addr.toNat % L = 0 →
      exec .stl s = .next { s with
        pending := s.pending ++
          [{ addr := s.lane.addr, data := (List.range L).map fun i => BitVec.ofNat 8 (byteAt s.lane.a i) }] }) ∧
    (s.lane.addr.toNat % L ≠ 0 →
      exec .ldl s = .refused .misalignedLane ∧ exec .stl s = .refused .misalignedLane)

/-- BLEND is the rounded weighted mean of two samples.  Rests on R167. -/
def Obligations.BlendFormula : Prop :=
  ∀ (w0 w1 sh : Nat) (a b : ByteLane), (sh = 3 ∨ sh = 8) → 0 < w0 → 0 < w1 → w0 + w1 = 2 ^ sh →
    (a.length = 16 ∨ a.length = 32) → b.length = a.length →
    blend (BitVec.ofNat 16 w0) (BitVec.ofNat 16 w1) sh a b =
      List.zipWith (fun x y => BitVec.ofNat 8 ((w0 * x.toNat + w1 * y.toNat + 2 ^ (sh - 1)) / 2 ^ sh)) a b ∧
    (∀ x y : Byte, (w0 * x.toNat + w1 * y.toNat + 2 ^ (sh - 1)) / 2 ^ sh ≤ 255) ∧
    blend (BitVec.ofNat 16 w0) (BitVec.ofNat 16 w1) sh a a = a

/-- MAC4 is the clamped, rounded four-tap sum, byte by byte.  Rests on 41_lane_arithmetic.md 6. Composite
functions the kernels use. -/
def Obligations.MultiplyAccumulateFormula : Prop :=
  ∀ (q0 q1 q2 q3 : Half) (r0 r1 r2 r3 : ByteLane), (r0.length = 16 ∨ r0.length = 32) → r1.length = r0.length →
    r2.length = r0.length → r3.length = r0.length →
    mac4 q0 q1 q2 q3 r0 r1 r2 r3 = (List.range r0.length).map fun i =>
      BitVec.ofInt 8 (min (max ((q0.toInt * (r0.getD i 0#8).toNat + q1.toInt * (r1.getD i 0#8).toNat +
        q2.toInt * (r2.getD i 0#8).toNat + q3.toInt * (r3.getD i 0#8).toNat + 512) / 1024) 0) 255)

/-- MACSYM equals MAC4 with mirrored coefficients.  Rests on R215. -/
def Obligations.SymmetryShortcutEquivalence : Prop :=
  ∀ (c0 c1 : Half) (r0 r1 r2 r3 : ByteLane), (r0.length = 16 ∨ r0.length = 32) → r1.length = r0.length →
    r2.length = r0.length → r3.length = r0.length →
    macsym c0 c1 r0 r1 r2 r3 = mac4 c1 c0 c0 c1 r0 r1 r2 r3

/-- Kernels map a constant plane to the same constant.  Rests on 42_kernels_point_linear.md 4. Properties;
43_kernels_cubic.md 3. Properties. -/
def Obligations.ConstantPlanesStayConstant : Prop :=
  ∀ (K : Kernel) (h v j g : Nat) (C : Coefs) (l : Nat), 4 ≤ h → h % 4 = 0 → v ≤ 255 → (l = 16 ∨ l = 32) →
    g < (if K.scan = .progressive then h else h / 2) →
    let near (x : Int) : Prop := 1022 ≤ x ∧ x ≤ 1026
    ((K = .cubSymP ∨ K = .cubSymI) → near (2 * (C.c0.toInt + C.c1.toInt))) →
    ((K = .cubQP ∨ K = .cub8I) → near (C.c0.toInt + C.c1.toInt + C.c2.toInt + C.c3.toInt)) →
    (K = .cub8I → near (C.c4.toInt + C.c5.toInt + C.c6.toInt + C.c7.toInt)) →
    K.sampleOf h C (fun _ => v) j = v ∧
    ∀ p ∈ K.outputs h g C (fun _ => List.replicate l (BitVec.ofNat 8 v)), p.2 = List.replicate l (BitVec.ofNat 8 v)

/-- Every destination row is assigned exactly once.  Rests on 42_kernels_point_linear.md 1. Rules common to every
kernel. -/
def Obligations.EveryDestinationRowOnce : Prop :=
  ∀ (K : Kernel) (h : Nat) (C : Coefs) (S : Nat → ByteLane), h % 4 = 0 →
    ((List.range (if K.scan = .progressive then h else h / 2)).flatMap fun g => (K.outputs h g C S).map Prod.fst) =
      List.range (2 * h)

/-- No group reads outside the plane, and a row depends only on the rows and registers it is computed from.  Rests
on 20_memory.md 4. Regions, bounds and ownership; 44_dispatch_and_commands.md 4. The sequencer;
43_kernels_cubic.md. -/
def Obligations.SourceRowsInBounds : Prop :=
  ∀ (K : Kernel) (h g : Nat) (C : Coefs), 4 ≤ h → h % 4 = 0 → g < (if K.scan = .progressive then h else h / 2) →
    (∀ r ∈ K.sources h g, r < h) ∧
    ((K.sources h g).length = match K with
      | .ptP => 1 | .ptI => 2 | .linHalfP => 2 | .linHalfI => 4 | .linXfI => 3 | .linQP => 3 | .linEI => 6
      | .cubSymP => 4 | .cubSymI => 8 | .cubQP => 5 | .cub8I => 10) ∧
    (∀ S T : Nat → ByteLane, (∀ r ∈ K.sources h g, S r = T r) → K.outputs h g C S = K.outputs h g C T) ∧
    (∀ S T : Nat → ByteLane, ∀ p ∈ K.outputs h g C S, (∀ r ∈ K.reads h p.1, r ∈ K.sources h g) ∧
      ((∀ r ∈ K.reads h p.1, S r = T r) → p ∈ K.outputs h g C T)) ∧
    (∀ (D : Coefs) (S : Nat → ByteLane),
      (∀ j < (match K with
        | .cubSymP | .cubSymI => 2 | .cubQP => 4 | .cub8I => 8
        | .ptP | .ptI | .linHalfP | .linHalfI | .linXfI | .linQP | .linEI => 0), C.get j = D.get j) →
      K.outputs h g C S = K.outputs h g D S)

/-- The bottom-up mirror reverses the rows of a view.  Rests on 20_memory.md 1. Address spaces. -/
def Obligations.MirrorReversesRows : Prop :=
  ∀ (v : View) (r : Nat), r < v.rows →
    v.mirror.rowAddr r = v.rowAddr ((v.rows : Int) - 1 - r) ∧
    (∀ l c, v.mirror.laneAddr l r c = v.laneAddr l (v.rows - 1 - r) c) ∧
    v.mirror.mirror.rowAddr r = v.rowAddr r ∧
    (v.inSpace = true → 0 < v.width → ∀ a, v.mirror.holds a = v.holds a)

/-- The walk of POS, and completion after exactly NG * NC steps and one. The position after the last step is that
of log entry 11, that an empty queue moves the sequencer is log entry 4, and that completion performs what is
pending is log entry 10. Rests on 44_dispatch_and_commands.md 4. The sequencer; 10_state.md 3. The position
register (the block's program counter). -/
def Obligations.ResampleProgress : Prop :=
  ∀ it st sc lw ro (s : State), s.Started (resampleWord it st sc lw ro) (laneBytes lw) (2 * s.height) →
    let NG := if sc = .progressive then s.height else s.height / 2
    let NC := s.width / laneBytes lw
    (∀ n ≤ NG * NC, ∃ t, Host.Core.run Sys2Proof.core n s = .next t ∧
      t = { s with pending := t.pending, pos := t.pos } ∧
      t.pos.group.toNat = n / NC ∧ t.pos.col.toNat = n % NC) ∧
    ∃ t, Host.Core.run Sys2Proof.core (NG * NC + 1) s = .next t ∧
      t = { s with mem := t.mem, status := { s.status with busy := false, done := true } }

/-- A whole RESAMPLE leaves exactly the kernel's destination plane in memory. For Linear, siting 0 or 3,
interlaced, the recipe is the default of log entry 13. That an empty queue moves the sequencer is log entry 4,
that completion performs what is pending is log entry 10. Rests on 42_kernels_point_linear.md;
43_kernels_cubic.md; 44_dispatch_and_commands.md 4. The sequencer; 20_memory.md 5. Ordering. -/
def Obligations.WholePlaneResample : Prop :=
  ∀ it st sc lw ro (s : State), s.Started (resampleWord it st sc lw ro) (laneBytes lw) (2 * s.height) →
    let NG := if sc = .progressive then s.height else s.height / 2
    let NC := s.width / laneBytes lw
    let src := s.srcView.ordered ro
    let dst := (s.dstView (2 * s.height)).ordered ro
    ∃ t, Host.Core.run Sys2Proof.core (NG * NC + 1) s = .next t ∧
      t = { s with mem := t.mem, status := { s.status with busy := false, done := true } } ∧
      (∀ j < 2 * s.height, ∀ x < s.width,
        (readByte t.mem (dst.sampleAddr j x)).toNat =
          (dispatch it st sc).sampleOf s.height s.coefs (fun r => (readByte s.mem (src.sampleAddr r x)).toNat) j) ∧
      (∀ a, (s.dstView (2 * s.height)).holds a = false → readByte t.mem a = readByte s.mem a)

/-- A whole HSHIFT leaves exactly the filtered plane in memory. That an empty queue moves the sequencer is log
entry 4, that completion performs what is pending is log entry 10. Rests on 45_hshift.md;
44_dispatch_and_commands.md 4. The sequencer. -/
def Obligations.WholePlaneHshift : Prop :=
  ∀ lw ro (s : State), s.Started (hshiftWord lw ro) (laneBytes lw) s.height →
    let NC := s.width / laneBytes lw
    let src := s.srcView.ordered ro
    let dst := (s.dstView s.height).ordered ro
    ∃ t, Host.Core.run Sys2Proof.core (s.height * NC + 1) s = .next t ∧
      t = { s with mem := t.mem, carry := t.carry, status := { s.status with busy := false, done := true } } ∧
      (∀ r < s.height, ∀ x < s.width,
        (readByte t.mem (dst.sampleAddr r x)).toNat =
          hshiftSample (fun y => (readByte s.mem (src.sampleAddr r y)).toNat) x) ∧
      (∀ a, (s.dstView s.height).holds a = false → readByte t.mem a = readByte s.mem a)
end

