-- ==== Sys2Proof/Machine/Duties.lean ====
section
/-!
DEFINITION. The caller's duties (spec 60_exceptions R298, 10_state R42), and the model that refuses. The block checks
none of them: `step` runs a command on whatever bits the registers hold, as R42 says of the hardware. `contractStep` is
the same machine with the refusal that R298 asks of a model: it answers nothing for a breach of P1 to P12, by its name.
-/

namespace Sys2Proof.Machine

/-- The indices of the registers a command word reads (R109, R216): the six operands, the coefficients of a Cubic
kernel, the shape of a TAPGEN. -/
def registersRead (w : Word) : List Nat :=
  match commandKernel w with
  | some K => [4, 5, 6, 7, 8, 9] ++ (List.range K.coefCount).map (16 + ·)
  | none =>
    if w.extractLsb' 0 4 = 2#4 then [4, 5, 6, 7, 8, 9]
    else if w.extractLsb' 0 4 = 3#4 then [12, 13, 14, 15]
    else []

/-- The registers a command word reads and nothing has written since reset (R42; P9, P10 and P11 of R298). -/
def State.unwrittenReads (s : State) (w : Word) : List Nat := (registersRead w).filter s.unwritten.contains

/-- Every byte of a view lets the block make an access (P7 of R298, R79 d). -/
def State.viewAllows (s : State) (acc : Access) (v : View) : Bool :=
  (List.range v.rows).all fun r => (List.range v.width).all fun x => byteAllows s.limits acc (v.byteAddr r x)

/-- A breach of R298, the reason why `contractStep` refuses. -/
inductive Breach where
  /-- P9, P10 and P11: the command reads these registers, which nothing has written since reset -/
  | unwritten (registers : List Nat)
  /-- P1 to P6, by the name `brokenPrecondition` gives -/
  | geometry (r : Refusal)
  /-- P7: a byte of a plane that the platform does not map for the access -/
  | unmapped
  /-- P8: another agent writes a plane of the command in progress, or reads its destination -/
  | ownership
  /-- P12: a tap of a finite shape that does not fit 16 bits -/
  | tapOverflow
deriving DecidableEq, Repr

/-- The rows of the destination of a command with planes (R86). -/
def State.destinationRows (s : State) (w : Word) : Option Nat :=
  if w.extractLsb' 0 4 = 1#4 then some (2 * s.height)
  else if w.extractLsb' 0 4 = 2#4 then some s.height
  else none

/-- The breach of P1 to P7 by a command whose destination has `dstRows` rows. -/
def State.planesBreach (s : State) (w : Word) (dstRows : Nat) : Option Breach :=
  match brokenPrecondition (laneBytes (laneWidthOf (w.extractLsb' 9 1))) s.srcView (s.dstView dstRows) with
  | some r => some (.geometry r)
  | none =>
    if s.viewAllows .load s.srcView && s.viewAllows .store (s.dstView dstRows) then none else some .unmapped

/-- The breach of P12 by a TAPGEN word. A shape that is not finite is none: it is rejected (R108). -/
def State.tapsBreach (s : State) (w : Word) : Option Breach :=
  if w.extractLsb' 0 4 = 3#4 ∧ finitePattern s.fb = true ∧ finitePattern s.fc = true ∧
    (tapSet (sitingOf (w.extractLsb' 6 2)) (scanOf (w.extractLsb' 8 1)) s.fb s.fc).all tapFits = false
  then some .tapOverflow else none

/-- The breach of a command word written to an idle block, if there is one: P9 to P11, then P1 to P7, then P12.
DESIGN CHOICE (log entry 23): a TAPGEN with a shape register unwritten and a shape that is not finite is a breach of
P11, though R108 would reject it. -/
def State.commandBreach (s : State) (w : Word) : Option Breach :=
  if s.unwrittenReads w ≠ [] then some (.unwritten (s.unwrittenReads w))
  else match s.destinationRows w with
    | some n => s.planesBreach w n
    | none => s.tapsBreach w

/-- Every duty of R298 for a command word: P8 so far as no race has been noted, and the others. -/
def State.dutiesKept (s : State) (w : Word) : Bool := s.raced.isEmpty && (s.commandBreach w).isNone

/-- Whether a byte lies in the destination of the command in progress (R82.5, R86). -/
def State.inDestination (s : State) (a : Word) : Bool :=
  match s.planesInUse with
  | some (_, dst) => dst.holds a.toNat
  | none => false

/-- The breach the next step would commit: a command accepted against its duties, or an access of the host to the
planes of the command in progress (P8). -/
def State.stepBreach (s : State) : Option Breach :=
  match s.events with
  | .write n w :: _ =>
    if n = 0#6 ∧ s.status.busy = false ∧ (decode (.cmd w)).isOk = true then s.commandBreach w else none
  | .store a _ :: _ => if s.inUse a then some .ownership else none
  | .load a :: _ => if s.inDestination a then some .ownership else none
  | _ => none

/-- The model that refuses (R42, R135, R298; 92 D21, D37; 93 U1, U3, U8): a breach has no meaning and is named; every
other step is the machine's. -/
def contractStep (s : State) : Except Breach (Host.Outcome State Fault Refusal) :=
  match s.stepBreach with
  | some b => .error b
  | none => .ok (step s)

end Sys2Proof.Machine
end

