-- ==== Sys2Proof/Laws/Duties.lean ====
section
/-!
SUPPORT. What `contractStep` can do: it refuses exactly the breaches of R298, and otherwise it is the machine's step.
-/

namespace Sys2Proof.Machine

/-- An answer of the refusing model is the machine's own, and no duty is broken. -/
theorem contractStep_ok_iff (s : State) (o : Host.Outcome State Fault Refusal) :
    contractStep s = .ok o ↔ s.stepBreach = none ∧ step s = o := by
  unfold contractStep
  split <;> simp_all

/-- The refusing model refuses with the breach of the step, and only then. -/
theorem contractStep_error_iff (s : State) (b : Breach) : contractStep s = .error b ↔ s.stepBreach = some b := by
  unfold contractStep
  split <;> simp_all

/-- R42: a command written to an idle block while a register it reads is unwritten is refused, by those registers. -/
theorem contractStep_unwritten (s : State) (w : Word) (rest : List Event) (i : Instr)
    (h : s.events = .write 0#6 w :: rest) (hb : s.status.busy = false) (hd : decode (.cmd w) = .ok i)
    (hu : s.unwrittenReads w ≠ []) : contractStep s = .error (.unwritten (s.unwrittenReads w)) := by
  simp [contractStep_error_iff, State.stepBreach, State.commandBreach, h, hb, hd, hu, Except.isOk, Except.toBool]

/-- R135, P12: a TAPGEN on written and finite shapes with a tap that does not fit is refused. -/
theorem contractStep_tapOverflow (s : State) (w : Word) (rest : List Event) (i : Instr)
    (h : s.events = .write 0#6 w :: rest) (hb : s.status.busy = false) (hd : decode (.cmd w) = .ok i)
    (hu : s.unwrittenReads w = []) (ho : w.extractLsb' 0 4 = 3#4) (hf : finitePattern s.fb = true)
    (hg : finitePattern s.fc = true)
    (ht : (tapSet (sitingOf (w.extractLsb' 6 2)) (scanOf (w.extractLsb' 8 1)) s.fb s.fc).all tapFits = false) :
    contractStep s = .error .tapOverflow := by
  have hr : s.destinationRows w = none := by simp [State.destinationRows, ho]
  simp [contractStep_error_iff, State.stepBreach, State.commandBreach, h, hb, hd, hu, hr, State.tapsBreach, ho, hf, hg,
    ht, Except.isOk, Except.toBool]

end Sys2Proof.Machine
end

