-- ==== Sys2Proof/Laws/Lanes.lean ====
section
/-!
SUPPORT. Lengths of the lane operations, and the layout of lanes in the ports element by element.
-/

namespace Sys2Proof.Machine

/-! ### Lengths -/

@[simp] theorem avg2_length (a b : ByteLane) : (avg2 a b).length = min a.length b.length := by simp [avg2]

@[simp] theorem map4_length (f : Byte → Byte → Byte → Byte → Byte) (a b c d : ByteLane) (hb : b.length = a.length)
    (hc : c.length = a.length) (hd : d.length = a.length) : (map4 f a b c d).length = a.length := by
  induction a generalizing b c d with
  | nil => simp [map4]
  | cons x a ih =>
    match b, c, d, hb, hc, hd with
    | y :: b, z :: c, w :: d, hb, hc, hd =>
      simp only [List.length_cons, Nat.add_right_cancel_iff] at hb hc hd
      simp [map4, ih b c d hb hc hd]

@[simp] theorem widenLo_length (a : ByteLane) : (widenLo a).length = a.length / 2 := by
  simp only [widenLo, List.length_map, List.length_take]
  omega

@[simp] theorem widenHi_length (a : ByteLane) : (widenHi a).length = a.length - a.length / 2 := by
  simp [widenHi]

@[simp] theorem interleave_length (p q : HalfLane) (h : q.length = p.length) :
    (interleave p q).length = 2 * p.length := by
  induction p generalizing q with
  | nil => simp [interleave]
  | cons x p ih =>
    match q, h with
    | y :: q, h =>
      simp only [List.length_cons, Nat.add_right_cancel_iff] at h
      simp only [interleave, List.length_cons, ih q h]
      omega

@[simp] theorem add16_length (p q : HalfLane) : (add16 p q).length = min p.length q.length := by simp [add16]

@[simp] theorem add32_length (u v : WordLane) : (add32 u v).length = min u.length v.length := by simp [add32]

theorem madd_length (n : Nat) (x k : HalfLane) (hx : x.length = 2 * n) (hk : k.length = 2 * n) :
    (madd x k).length = n := by
  induction n generalizing x k with
  | zero =>
    obtain rfl : x = [] := List.length_eq_zero_iff.mp hx
    simp [madd]
  | succ n ih =>
    match x, k, hx, hk with
    | [], _, hx, _ | [_], _, hx, _ => simp at hx; try omega
    | _ :: _ :: _, [], _, hk | _ :: _ :: _, [_], _, hk => simp at hk; try omega
    | x0 :: x1 :: xs, k0 :: k1 :: ks, hx, hk =>
      simp only [List.length_cons] at hx hk
      simp [madd, ih xs ks (by omega) (by omega)]

@[simp] theorem sra32_length (u : WordLane) (n : Nat) : (sra32 u n).length = u.length := by simp [sra32]

@[simp] theorem packs32_length (lo hi : WordLane) : (packs32 lo hi).length = lo.length + hi.length := by
  simp [packs32]

@[simp] theorem packus16_length (lo hi : HalfLane) : (packus16 lo hi).length = lo.length + hi.length := by
  simp [packus16]

@[simp] theorem bcast_length (l : Nat) (p0 p1 : Half) : (bcast l p0 p1).length = l / 4 * 2 := by
  simp [bcast]

theorem rereadWords_length (n : Nat) (p : HalfLane) (h : p.length = 2 * n) : (rereadWords p).length = n := by
  induction n generalizing p with
  | zero =>
    obtain rfl : p = [] := List.length_eq_zero_iff.mp h
    simp [rereadWords]
  | succ n ih =>
    match p, h with
    | [], h | [_], h => simp at h; try omega
    | p0 :: p1 :: ps, h =>
      simp only [List.length_cons] at h
      simp [rereadWords, ih ps (by omega)]

@[simp] theorem shiftIn_length (a : ByteLane) (cy : Byte) : (shiftIn a cy).length = a.length := by
  simp [shiftIn]

@[simp] theorem bytesOf_length (l : Nat) (v : BitVec 256) : (bytesOf l v).length = l := by simp [bytesOf]

@[simp] theorem halvesOf_length (l : Nat) (v : BitVec 256) : (halvesOf l v).length = l / 2 := by simp [halvesOf]

@[simp] theorem wordsOf_length (l : Nat) (v : BitVec 256) : (wordsOf l v).length = l / 4 := by simp [wordsOf]

/-! ### Layout (R166) -/

/-- A list of elements below 2^n laid out takes n bits an element. -/
theorem layOut_lt (n : Nat) (xs : List Nat) (h : ∀ x ∈ xs, x < 2 ^ n) : layOut n xs < 2 ^ (n * xs.length) := by
  induction xs with
  | nil => simp [layOut]
  | cons x xs ih =>
    have hx := h x List.mem_cons_self
    have hi := ih fun y hy => h y (List.mem_cons_of_mem _ hy)
    rw [List.length_cons, Nat.mul_succ, Nat.pow_add, layOut]
    nlinarith [Nat.mul_le_mul_left (2 ^ n) (Nat.succ_le_of_lt hi)]

/-- Element i of a laid out list. -/
theorem layOut_element (n i : Nat) (xs : List Nat) (h : ∀ x ∈ xs, x < 2 ^ n) :
    layOut n xs / 2 ^ (n * i) % 2 ^ n = xs.getD i 0 := by
  induction xs generalizing i with
  | nil => simp [layOut]
  | cons x xs ih =>
    have hx := h x List.mem_cons_self
    cases i with
    | zero => simp [layOut, Nat.mod_eq_of_lt hx]
    | succ i =>
      rw [Nat.mul_succ, Nat.add_comm, Nat.pow_add, ← Nat.div_div_eq_div_mul, layOut,
        Nat.add_mul_div_left _ _ (Nat.two_pow_pos n), Nat.div_eq_of_lt hx, Nat.zero_add,
        ih i fun y hy => h y (List.mem_cons_of_mem _ hy)]
      simp

/-- A byte lane of at most 32 bytes fits the port whole. -/
theorem ofBytes_toNat (a : ByteLane) (h : a.length ≤ 32) : (ofBytes a).toNat = layOut 8 (a.map BitVec.toNat) := by
  rw [ofBytes, BitVec.toNat_ofNat]
  refine Nat.mod_eq_of_lt (Nat.lt_of_lt_of_le (layOut_lt 8 _ ?_) (Nat.pow_le_pow_right (by omega) ?_))
  · simp only [List.mem_map]
    rintro x ⟨b, -, rfl⟩
    exact b.isLt
  · simp only [List.length_map]
    omega

/-- Element i of a byte lane put on a port. -/
theorem byteAt_ofBytes (a : ByteLane) (i : Nat) (h : a.length ≤ 32) :
    byteAt (ofBytes a) i = (a.map BitVec.toNat).getD i 0 := by
  rw [byteAt, ofBytes_toNat a h]
  refine layOut_element 8 i _ ?_
  simp only [List.mem_map]
  rintro x ⟨b, -, rfl⟩
  exact b.isLt

/-- Element i of the byte lane taken from a port. -/
theorem bytesOf_getElem (l i : Nat) (v : BitVec 256) (h : i < (bytesOf l v).length) :
    ((bytesOf l v)[i]).toNat = byteAt v i := by
  simp [bytesOf, byteAt, Nat.shiftRight_eq_div_pow]

end Sys2Proof.Machine
end

