-- ==== Sys2Proof/Laws/State.lean ====
section
/-!
SUPPORT. One lemma per field for every update of the state that is no case distinction, and for the updates
with a case distinction one lemma per field that no case touches. All hold by unfolding the update.
-/

namespace Sys2Proof.Machine

/-! ### `State.issue` -/

@[simp] theorem State.issue_status (s : State) (xs : List LaneStore) : (s.issue xs).status = s.status :=
    rfl
@[simp] theorem State.issue_ie (s : State) (xs : List LaneStore) : (s.issue xs).ie = s.ie :=
    rfl
@[simp] theorem State.issue_last (s : State) (xs : List LaneStore) : (s.issue xs).last = s.last :=
    rfl
@[simp] theorem State.issue_ops (s : State) (xs : List LaneStore) : (s.issue xs).ops = s.ops :=
    rfl
@[simp] theorem State.issue_shape (s : State) (xs : List LaneStore) : (s.issue xs).shape = s.shape :=
    rfl
@[simp] theorem State.issue_coefs (s : State) (xs : List LaneStore) : (s.issue xs).coefs = s.coefs :=
    rfl
@[simp] theorem State.issue_pos (s : State) (xs : List LaneStore) : (s.issue xs).pos = s.pos :=
    rfl
@[simp] theorem State.issue_carry (s : State) (xs : List LaneStore) : (s.issue xs).carry = s.carry :=
    rfl
@[simp] theorem State.issue_pending (s : State) (xs : List LaneStore) : (s.issue xs).pending = s.pending ++ xs :=
    rfl
@[simp] theorem State.issue_mem (s : State) (xs : List LaneStore) : (s.issue xs).mem = s.mem :=
    rfl
@[simp] theorem State.issue_limits (s : State) (xs : List LaneStore) : (s.issue xs).limits = s.limits :=
    rfl
@[simp] theorem State.issue_unwritten (s : State) (xs : List LaneStore) : (s.issue xs).unwritten = s.unwritten :=
    rfl
@[simp] theorem State.issue_raced (s : State) (xs : List LaneStore) : (s.issue xs).raced = s.raced :=
    rfl
@[simp] theorem State.issue_lane (s : State) (xs : List LaneStore) : (s.issue xs).lane = s.lane :=
    rfl
@[simp] theorem State.issue_events (s : State) (xs : List LaneStore) : (s.issue xs).events = s.events :=
    rfl
@[simp] theorem State.issue_hostData (s : State) (xs : List LaneStore) : (s.issue xs).hostData = s.hostData :=
    rfl
@[simp] theorem State.issue_free (s : State) (xs : List LaneStore) : (s.issue xs).free = s.free :=
    rfl

/-! ### `State.accept` -/

@[simp] theorem State.accept_status (s : State) (w : Word) : (s.accept w).status = { s.status with done := false, busy := true } :=
    rfl
@[simp] theorem State.accept_ie (s : State) (w : Word) : (s.accept w).ie = s.ie :=
    rfl
@[simp] theorem State.accept_last (s : State) (w : Word) : (s.accept w).last = w :=
    rfl
@[simp] theorem State.accept_ops (s : State) (w : Word) : (s.accept w).ops = s.ops :=
    rfl
@[simp] theorem State.accept_shape (s : State) (w : Word) : (s.accept w).shape = s.shape :=
    rfl
@[simp] theorem State.accept_coefs (s : State) (w : Word) : (s.accept w).coefs = s.coefs :=
    rfl
@[simp] theorem State.accept_pos (s : State) (w : Word) : (s.accept w).pos = { group := 0#16, col := 0#12 } :=
    rfl
@[simp] theorem State.accept_carry (s : State) (w : Word) : (s.accept w).carry = s.carry :=
    rfl
@[simp] theorem State.accept_pending (s : State) (w : Word) : (s.accept w).pending = s.pending :=
    rfl
@[simp] theorem State.accept_mem (s : State) (w : Word) : (s.accept w).mem = s.mem :=
    rfl
@[simp] theorem State.accept_limits (s : State) (w : Word) : (s.accept w).limits = s.limits :=
    rfl
@[simp] theorem State.accept_unwritten (s : State) (w : Word) : (s.accept w).unwritten = s.unwritten :=
    rfl
@[simp] theorem State.accept_raced (s : State) (w : Word) : (s.accept w).raced = [] :=
    rfl
@[simp] theorem State.accept_lane (s : State) (w : Word) : (s.accept w).lane = s.lane :=
    rfl
@[simp] theorem State.accept_events (s : State) (w : Word) : (s.accept w).events = s.events :=
    rfl
@[simp] theorem State.accept_hostData (s : State) (w : Word) : (s.accept w).hostData = s.hostData :=
    rfl
@[simp] theorem State.accept_free (s : State) (w : Word) : (s.accept w).free = s.free :=
    rfl

/-! ### `State.raiseCfgErr` -/

@[simp] theorem State.raiseCfgErr_status (s : State) (c : BitVec 4) : (s.raiseCfgErr c).status = { s.status with cfgerr := true, cause := c } :=
    rfl
@[simp] theorem State.raiseCfgErr_ie (s : State) (c : BitVec 4) : (s.raiseCfgErr c).ie = s.ie :=
    rfl
@[simp] theorem State.raiseCfgErr_last (s : State) (c : BitVec 4) : (s.raiseCfgErr c).last = s.last :=
    rfl
@[simp] theorem State.raiseCfgErr_ops (s : State) (c : BitVec 4) : (s.raiseCfgErr c).ops = s.ops :=
    rfl
@[simp] theorem State.raiseCfgErr_shape (s : State) (c : BitVec 4) : (s.raiseCfgErr c).shape = s.shape :=
    rfl
@[simp] theorem State.raiseCfgErr_coefs (s : State) (c : BitVec 4) : (s.raiseCfgErr c).coefs = s.coefs :=
    rfl
@[simp] theorem State.raiseCfgErr_pos (s : State) (c : BitVec 4) : (s.raiseCfgErr c).pos = s.pos :=
    rfl
@[simp] theorem State.raiseCfgErr_carry (s : State) (c : BitVec 4) : (s.raiseCfgErr c).carry = s.carry :=
    rfl
@[simp] theorem State.raiseCfgErr_pending (s : State) (c : BitVec 4) : (s.raiseCfgErr c).pending = s.pending :=
    rfl
@[simp] theorem State.raiseCfgErr_mem (s : State) (c : BitVec 4) : (s.raiseCfgErr c).mem = s.mem :=
    rfl
@[simp] theorem State.raiseCfgErr_limits (s : State) (c : BitVec 4) : (s.raiseCfgErr c).limits = s.limits :=
    rfl
@[simp] theorem State.raiseCfgErr_unwritten (s : State) (c : BitVec 4) : (s.raiseCfgErr c).unwritten = s.unwritten :=
    rfl
@[simp] theorem State.raiseCfgErr_raced (s : State) (c : BitVec 4) : (s.raiseCfgErr c).raced = s.raced :=
    rfl
@[simp] theorem State.raiseCfgErr_lane (s : State) (c : BitVec 4) : (s.raiseCfgErr c).lane = s.lane :=
    rfl
@[simp] theorem State.raiseCfgErr_events (s : State) (c : BitVec 4) : (s.raiseCfgErr c).events = s.events :=
    rfl
@[simp] theorem State.raiseCfgErr_hostData (s : State) (c : BitVec 4) : (s.raiseCfgErr c).hostData = s.hostData :=
    rfl
@[simp] theorem State.raiseCfgErr_free (s : State) (c : BitVec 4) : (s.raiseCfgErr c).free = s.free :=
    rfl

/-! ### `State.writeStatus` -/

@[simp] theorem State.writeStatus_status (s : State) (v : Word) : (s.writeStatus v).status = { s.status with
      done := s.status.done && !v.getLsbD 1
      cfgerr := s.status.cfgerr && !v.getLsbD 2
      ovr := s.status.ovr && !v.getLsbD 3 } :=
    rfl
@[simp] theorem State.writeStatus_ie (s : State) (v : Word) : (s.writeStatus v).ie = s.ie :=
    rfl
@[simp] theorem State.writeStatus_last (s : State) (v : Word) : (s.writeStatus v).last = s.last :=
    rfl
@[simp] theorem State.writeStatus_ops (s : State) (v : Word) : (s.writeStatus v).ops = s.ops :=
    rfl
@[simp] theorem State.writeStatus_shape (s : State) (v : Word) : (s.writeStatus v).shape = s.shape :=
    rfl
@[simp] theorem State.writeStatus_coefs (s : State) (v : Word) : (s.writeStatus v).coefs = s.coefs :=
    rfl
@[simp] theorem State.writeStatus_pos (s : State) (v : Word) : (s.writeStatus v).pos = s.pos :=
    rfl
@[simp] theorem State.writeStatus_carry (s : State) (v : Word) : (s.writeStatus v).carry = s.carry :=
    rfl
@[simp] theorem State.writeStatus_pending (s : State) (v : Word) : (s.writeStatus v).pending = s.pending :=
    rfl
@[simp] theorem State.writeStatus_mem (s : State) (v : Word) : (s.writeStatus v).mem = s.mem :=
    rfl
@[simp] theorem State.writeStatus_limits (s : State) (v : Word) : (s.writeStatus v).limits = s.limits :=
    rfl
@[simp] theorem State.writeStatus_unwritten (s : State) (v : Word) : (s.writeStatus v).unwritten = s.unwritten :=
    rfl
@[simp] theorem State.writeStatus_raced (s : State) (v : Word) : (s.writeStatus v).raced = s.raced :=
    rfl
@[simp] theorem State.writeStatus_lane (s : State) (v : Word) : (s.writeStatus v).lane = s.lane :=
    rfl
@[simp] theorem State.writeStatus_events (s : State) (v : Word) : (s.writeStatus v).events = s.events :=
    rfl
@[simp] theorem State.writeStatus_hostData (s : State) (v : Word) : (s.writeStatus v).hostData = s.hostData :=
    rfl
@[simp] theorem State.writeStatus_free (s : State) (v : Word) : (s.writeStatus v).free = s.free :=
    rfl

/-! ### `State.overrun` -/

@[simp] theorem State.overrun_status (s : State) : (s.overrun).status = { s.status with ovr := true } :=
    rfl
@[simp] theorem State.overrun_ie (s : State) : (s.overrun).ie = s.ie :=
    rfl
@[simp] theorem State.overrun_last (s : State) : (s.overrun).last = s.last :=
    rfl
@[simp] theorem State.overrun_ops (s : State) : (s.overrun).ops = s.ops :=
    rfl
@[simp] theorem State.overrun_shape (s : State) : (s.overrun).shape = s.shape :=
    rfl
@[simp] theorem State.overrun_coefs (s : State) : (s.overrun).coefs = s.coefs :=
    rfl
@[simp] theorem State.overrun_pos (s : State) : (s.overrun).pos = s.pos :=
    rfl
@[simp] theorem State.overrun_carry (s : State) : (s.overrun).carry = s.carry :=
    rfl
@[simp] theorem State.overrun_pending (s : State) : (s.overrun).pending = s.pending :=
    rfl
@[simp] theorem State.overrun_mem (s : State) : (s.overrun).mem = s.mem :=
    rfl
@[simp] theorem State.overrun_limits (s : State) : (s.overrun).limits = s.limits :=
    rfl
@[simp] theorem State.overrun_unwritten (s : State) : (s.overrun).unwritten = s.unwritten :=
    rfl
@[simp] theorem State.overrun_raced (s : State) : (s.overrun).raced = s.raced :=
    rfl
@[simp] theorem State.overrun_lane (s : State) : (s.overrun).lane = s.lane :=
    rfl
@[simp] theorem State.overrun_events (s : State) : (s.overrun).events = s.events :=
    rfl
@[simp] theorem State.overrun_hostData (s : State) : (s.overrun).hostData = s.hostData :=
    rfl
@[simp] theorem State.overrun_free (s : State) : (s.overrun).free = s.free :=
    rfl

/-! ### `State.withResult` -/

@[simp] theorem State.withResult_status (s : State) (v : BitVec 256) : (s.withResult v).status = s.status :=
    rfl
@[simp] theorem State.withResult_ie (s : State) (v : BitVec 256) : (s.withResult v).ie = s.ie :=
    rfl
@[simp] theorem State.withResult_last (s : State) (v : BitVec 256) : (s.withResult v).last = s.last :=
    rfl
@[simp] theorem State.withResult_ops (s : State) (v : BitVec 256) : (s.withResult v).ops = s.ops :=
    rfl
@[simp] theorem State.withResult_shape (s : State) (v : BitVec 256) : (s.withResult v).shape = s.shape :=
    rfl
@[simp] theorem State.withResult_coefs (s : State) (v : BitVec 256) : (s.withResult v).coefs = s.coefs :=
    rfl
@[simp] theorem State.withResult_pos (s : State) (v : BitVec 256) : (s.withResult v).pos = s.pos :=
    rfl
@[simp] theorem State.withResult_carry (s : State) (v : BitVec 256) : (s.withResult v).carry = s.carry :=
    rfl
@[simp] theorem State.withResult_pending (s : State) (v : BitVec 256) : (s.withResult v).pending = s.pending :=
    rfl
@[simp] theorem State.withResult_mem (s : State) (v : BitVec 256) : (s.withResult v).mem = s.mem :=
    rfl
@[simp] theorem State.withResult_limits (s : State) (v : BitVec 256) : (s.withResult v).limits = s.limits :=
    rfl
@[simp] theorem State.withResult_unwritten (s : State) (v : BitVec 256) : (s.withResult v).unwritten = s.unwritten :=
    rfl
@[simp] theorem State.withResult_raced (s : State) (v : BitVec 256) : (s.withResult v).raced = s.raced :=
    rfl
@[simp] theorem State.withResult_lane (s : State) (v : BitVec 256) : (s.withResult v).lane = { s.lane with result := v } :=
    rfl
@[simp] theorem State.withResult_events (s : State) (v : BitVec 256) : (s.withResult v).events = s.events :=
    rfl
@[simp] theorem State.withResult_hostData (s : State) (v : BitVec 256) : (s.withResult v).hostData = s.hostData :=
    rfl
@[simp] theorem State.withResult_free (s : State) (v : BitVec 256) : (s.withResult v).free = s.free :=
    rfl

/-! ### `State.complete` -/

@[simp] theorem State.complete_ie (s : State) (xs : List Word) : (s.complete xs).ie = s.ie :=
    by unfold State.complete; split <;> rfl
@[simp] theorem State.complete_last (s : State) (xs : List Word) : (s.complete xs).last = s.last :=
    by unfold State.complete; split <;> rfl
@[simp] theorem State.complete_ops (s : State) (xs : List Word) : (s.complete xs).ops = s.ops :=
    by unfold State.complete; split <;> rfl
@[simp] theorem State.complete_shape (s : State) (xs : List Word) : (s.complete xs).shape = s.shape :=
    by unfold State.complete; split <;> rfl
@[simp] theorem State.complete_coefs (s : State) (xs : List Word) : (s.complete xs).coefs = s.coefs :=
    by unfold State.complete; split <;> rfl
@[simp] theorem State.complete_carry (s : State) (xs : List Word) : (s.complete xs).carry = s.carry :=
    by unfold State.complete; split <;> rfl
@[simp] theorem State.complete_limits (s : State) (xs : List Word) : (s.complete xs).limits = s.limits :=
    by unfold State.complete; split <;> rfl
@[simp] theorem State.complete_unwritten (s : State) (xs : List Word) : (s.complete xs).unwritten = s.unwritten :=
    by unfold State.complete; split <;> rfl
@[simp] theorem State.complete_lane (s : State) (xs : List Word) : (s.complete xs).lane = s.lane :=
    by unfold State.complete; split <;> rfl
@[simp] theorem State.complete_events (s : State) (xs : List Word) : (s.complete xs).events = s.events :=
    by unfold State.complete; split <;> rfl
@[simp] theorem State.complete_hostData (s : State) (xs : List Word) : (s.complete xs).hostData = s.hostData :=
    by unfold State.complete; split <;> rfl

/-! ### `State.performOne` -/

@[simp] theorem State.performOne_status (s : State) (k : Nat) : (s.performOne k).status = s.status :=
    by unfold State.performOne; split <;> (try split) <;> rfl
@[simp] theorem State.performOne_ie (s : State) (k : Nat) : (s.performOne k).ie = s.ie :=
    by unfold State.performOne; split <;> (try split) <;> rfl
@[simp] theorem State.performOne_last (s : State) (k : Nat) : (s.performOne k).last = s.last :=
    by unfold State.performOne; split <;> (try split) <;> rfl
@[simp] theorem State.performOne_ops (s : State) (k : Nat) : (s.performOne k).ops = s.ops :=
    by unfold State.performOne; split <;> (try split) <;> rfl
@[simp] theorem State.performOne_shape (s : State) (k : Nat) : (s.performOne k).shape = s.shape :=
    by unfold State.performOne; split <;> (try split) <;> rfl
@[simp] theorem State.performOne_coefs (s : State) (k : Nat) : (s.performOne k).coefs = s.coefs :=
    by unfold State.performOne; split <;> (try split) <;> rfl
@[simp] theorem State.performOne_pos (s : State) (k : Nat) : (s.performOne k).pos = s.pos :=
    by unfold State.performOne; split <;> (try split) <;> rfl
@[simp] theorem State.performOne_carry (s : State) (k : Nat) : (s.performOne k).carry = s.carry :=
    by unfold State.performOne; split <;> (try split) <;> rfl
@[simp] theorem State.performOne_limits (s : State) (k : Nat) : (s.performOne k).limits = s.limits :=
    by unfold State.performOne; split <;> (try split) <;> rfl
@[simp] theorem State.performOne_unwritten (s : State) (k : Nat) : (s.performOne k).unwritten = s.unwritten :=
    by unfold State.performOne; split <;> (try split) <;> rfl
@[simp] theorem State.performOne_raced (s : State) (k : Nat) : (s.performOne k).raced = s.raced :=
    by unfold State.performOne; split <;> (try split) <;> rfl
@[simp] theorem State.performOne_lane (s : State) (k : Nat) : (s.performOne k).lane = s.lane :=
    by unfold State.performOne; split <;> (try split) <;> rfl
@[simp] theorem State.performOne_events (s : State) (k : Nat) : (s.performOne k).events = s.events :=
    by unfold State.performOne; split <;> (try split) <;> rfl
@[simp] theorem State.performOne_hostData (s : State) (k : Nat) : (s.performOne k).hostData = s.hostData :=
    by unfold State.performOne; split <;> (try split) <;> rfl
@[simp] theorem State.performOne_free (s : State) (k : Nat) : (s.performOne k).free = s.free :=
    by unfold State.performOne; split <;> (try split) <;> rfl

/-! ### `State.writeData` -/

@[simp] theorem State.writeData_status (s : State) (n : BitVec 6) (v : Word) :
    (s.writeData n v).status = s.status := by
  unfold State.writeData; split <;> rfl
@[simp] theorem State.writeData_ie (s : State) (n : BitVec 6) (v : Word) :
    (s.writeData n v).ie = s.ie := by
  unfold State.writeData; split <;> rfl
@[simp] theorem State.writeData_last (s : State) (n : BitVec 6) (v : Word) :
    (s.writeData n v).last = s.last := by
  unfold State.writeData; split <;> rfl
@[simp] theorem State.writeData_pos (s : State) (n : BitVec 6) (v : Word) :
    (s.writeData n v).pos = s.pos := by
  unfold State.writeData; split <;> rfl
@[simp] theorem State.writeData_carry (s : State) (n : BitVec 6) (v : Word) :
    (s.writeData n v).carry = s.carry := by
  unfold State.writeData; split <;> rfl
@[simp] theorem State.writeData_pending (s : State) (n : BitVec 6) (v : Word) :
    (s.writeData n v).pending = s.pending := by
  unfold State.writeData; split <;> rfl
@[simp] theorem State.writeData_mem (s : State) (n : BitVec 6) (v : Word) :
    (s.writeData n v).mem = s.mem := by
  unfold State.writeData; split <;> rfl
@[simp] theorem State.writeData_limits (s : State) (n : BitVec 6) (v : Word) :
    (s.writeData n v).limits = s.limits := by
  unfold State.writeData; split <;> rfl
@[simp] theorem State.writeData_unwritten (s : State) (n : BitVec 6) (v : Word) :
    (s.writeData n v).unwritten = s.unwritten := by
  unfold State.writeData; split <;> rfl
@[simp] theorem State.writeData_raced (s : State) (n : BitVec 6) (v : Word) :
    (s.writeData n v).raced = s.raced := by
  unfold State.writeData; split <;> rfl
@[simp] theorem State.writeData_lane (s : State) (n : BitVec 6) (v : Word) :
    (s.writeData n v).lane = s.lane := by
  unfold State.writeData; split <;> rfl
@[simp] theorem State.writeData_events (s : State) (n : BitVec 6) (v : Word) :
    (s.writeData n v).events = s.events := by
  unfold State.writeData; split <;> rfl
@[simp] theorem State.writeData_hostData (s : State) (n : BitVec 6) (v : Word) :
    (s.writeData n v).hostData = s.hostData := by
  unfold State.writeData; split <;> rfl
@[simp] theorem State.writeData_free (s : State) (n : BitVec 6) (v : Word) :
    (s.writeData n v).free = s.free := by
  unfold State.writeData; split <;> rfl

/-! ### `State.hardReset` -/

@[simp] theorem State.hardReset_status (s : State) (xs : List Word) :
    (s.hardReset xs).status = { busy := false, done := false, cfgerr := false, ovr := false, cause := 0#4 } := rfl
@[simp] theorem State.hardReset_ie (s : State) (xs : List Word) :
    (s.hardReset xs).ie = false := rfl
@[simp] theorem State.hardReset_last (s : State) (xs : List Word) :
    (s.hardReset xs).last = 0#32 := rfl
@[simp] theorem State.hardReset_pos (s : State) (xs : List Word) :
    (s.hardReset xs).pos = { group := 0#16, col := 0#12 } := rfl
@[simp] theorem State.hardReset_pending (s : State) (xs : List Word) :
    (s.hardReset xs).pending = [] := rfl
@[simp] theorem State.hardReset_mem (s : State) (xs : List Word) :
    (s.hardReset xs).mem = 
      spoil (performStores s.mem (survivors s.free s.admitsStore s.pending)) (s.free + s.pending.length) xs := rfl
@[simp] theorem State.hardReset_limits (s : State) (xs : List Word) :
    (s.hardReset xs).limits = s.limits := rfl
@[simp] theorem State.hardReset_unwritten (s : State) (xs : List Word) :
    (s.hardReset xs).unwritten = unspecifiedAtReset := rfl
@[simp] theorem State.hardReset_raced (s : State) (xs : List Word) :
    (s.hardReset xs).raced = [] := rfl
@[simp] theorem State.hardReset_lane (s : State) (xs : List Word) :
    (s.hardReset xs).lane = s.lane := rfl
@[simp] theorem State.hardReset_events (s : State) (xs : List Word) :
    (s.hardReset xs).events = s.events := rfl
@[simp] theorem State.hardReset_hostData (s : State) (xs : List Word) :
    (s.hardReset xs).hostData = s.hostData := rfl
@[simp] theorem State.hardReset_free (s : State) (xs : List Word) :
    (s.hardReset xs).free = s.free + s.pending.length + xs.length + 19 := rfl

/-! ### Completion, when the port admits everything that is pending, and when it does not (R259, R301) -/

theorem State.complete_of_admitted (s : State) (xs : List Word) (h : s.pending.all s.admitsStore = true) :
    s.complete xs = { s with
      mem := spoil (performStores s.mem s.pending) s.free xs
      free := s.free + xs.length
      raced := []
      pending := []
      pos := { group := 0#16, col := 0#12 }
      status := { s.status with busy := false, done := true } } := if_pos h

theorem State.complete_of_not_admitted (s : State) (xs : List Word) (h : s.pending.all s.admitsStore = false) :
    s.complete xs = s := by simp [State.complete, h]

@[simp] theorem State.complete_ovr (s : State) (xs : List Word) : (s.complete xs).status.ovr = s.status.ovr := by
  unfold State.complete; split <;> rfl

@[simp] theorem State.complete_cfgerr (s : State) (xs : List Word) : (s.complete xs).status.cfgerr = s.status.cfgerr := by
  unfold State.complete; split <;> rfl

@[simp] theorem State.complete_cause (s : State) (xs : List Word) : (s.complete xs).status.cause = s.status.cause := by
  unfold State.complete; split <;> rfl

/-! ### `State.writeReg`: a data register of an idle block is written from then on (R42) -/

theorem State.writeReg_data (s : State) (n : BitVec 6) (v : Word) (h1 : n ≠ 1#6) (h2 : n ≠ 2#6)
    (hb : s.status.busy = false) :
    s.writeReg n v = { s.writeData n v with unwritten := s.unwritten.erase n.toNat } := by
  simp [State.writeReg, h1, h2, hb]

theorem State.writeReg_busy (s : State) (n : BitVec 6) (v : Word) (h1 : n ≠ 1#6) (h2 : n ≠ 2#6)
    (hb : s.status.busy = true) : s.writeReg n v = s := by
  simp [State.writeReg, h1, h2, hb]

/-! ### Placing an instruction -/

@[simp] theorem State.withFetchWord_events (s : State) (nbits w : Nat) :
    (s.withFetchWord nbits w).events = presentWord nbits w :: s.events := rfl
@[simp] theorem State.withFetchWord_mem (s : State) (nbits w : Nat) : (s.withFetchWord nbits w).mem = s.mem := rfl
@[simp] theorem State.withFetchWord_last (s : State) (nbits w : Nat) : (s.withFetchWord nbits w).last = s.last := rfl
@[simp] theorem State.withFetchWord_pending (s : State) (nbits w : Nat) :
    (s.withFetchWord nbits w).pending = s.pending := rfl

/-! ### Coefficient registers -/

@[simp] theorem Coefs.get_set_same (c : Coefs) (j : Nat) (v : Half) (h : j < 8) : (c.set j v).get j = v := by
  match j, h with
  | 0, _ | 1, _ | 2, _ | 3, _ | 4, _ | 5, _ | 6, _ | 7, _ => rfl

theorem Coefs.get_set_other (c : Coefs) (i j : Nat) (v : Half) (hi : i < 8) (hj : j < 8) (h : i ≠ j) :
    (c.set j v).get i = c.get i := by
  match i, j, hi, hj with
  | 0, 0, _, _ | 1, 1, _, _ | 2, 2, _, _ | 3, 3, _, _ | 4, 4, _, _ | 5, 5, _, _ | 6, 6, _, _ | 7, 7, _, _ => exact absurd rfl h
  | 0, 1, _, _ | 0, 2, _, _ | 0, 3, _, _ | 0, 4, _, _ | 0, 5, _, _ | 0, 6, _, _ | 0, 7, _, _ => rfl
  | 1, 0, _, _ | 1, 2, _, _ | 1, 3, _, _ | 1, 4, _, _ | 1, 5, _, _ | 1, 6, _, _ | 1, 7, _, _ => rfl
  | 2, 0, _, _ | 2, 1, _, _ | 2, 3, _, _ | 2, 4, _, _ | 2, 5, _, _ | 2, 6, _, _ | 2, 7, _, _ => rfl
  | 3, 0, _, _ | 3, 1, _, _ | 3, 2, _, _ | 3, 4, _, _ | 3, 5, _, _ | 3, 6, _, _ | 3, 7, _, _ => rfl
  | 4, 0, _, _ | 4, 1, _, _ | 4, 2, _, _ | 4, 3, _, _ | 4, 5, _, _ | 4, 6, _, _ | 4, 7, _, _ => rfl
  | 5, 0, _, _ | 5, 1, _, _ | 5, 2, _, _ | 5, 3, _, _ | 5, 4, _, _ | 5, 6, _, _ | 5, 7, _, _ => rfl
  | 6, 0, _, _ | 6, 1, _, _ | 6, 2, _, _ | 6, 3, _, _ | 6, 4, _, _ | 6, 5, _, _ | 6, 7, _, _ => rfl
  | 7, 0, _, _ | 7, 1, _, _ | 7, 2, _, _ | 7, 3, _, _ | 7, 4, _, _ | 7, 5, _, _ | 7, 6, _, _ => rfl

/-- Loading registers from `j` on leaves those below `j` alone. -/
theorem Coefs.get_load_below (vs : List Half) (c : Coefs) (i j : Nat) (hi : i < j) (hj : j + vs.length ≤ 8) :
    (c.load j vs).get i = c.get i := by
  induction vs generalizing c j with
  | nil => rfl
  | cons v vs ih =>
    simp only [List.length_cons] at hj
    rw [Coefs.load, ih (c.set j v) (j + 1) (by omega) (by omega), Coefs.get_set_other c i j v (by omega) (by omega) (by omega)]

/-- After loading registers from `j` on, each holds its value (R134). -/
theorem Coefs.get_load (vs : List Half) (c : Coefs) (i j : Nat) (v : Half) (h : vs[i]? = some v)
    (hj : j + vs.length ≤ 8) : (c.load j vs).get (j + i) = v := by
  induction vs generalizing c i j with
  | nil => simp at h
  | cons x vs ih =>
    simp only [List.length_cons] at hj
    cases i with
    | zero =>
      have hx : x = v := by simpa using h
      rw [Nat.add_zero, Coefs.load, Coefs.get_load_below vs _ j (j + 1) (by omega) (by omega), hx]
      exact Coefs.get_set_same c j v (by omega)
    | succ i =>
      rw [Coefs.load, show j + (i + 1) = (j + 1) + i by omega]
      exact ih (c.set j x) i (j + 1) (by simpa using h) (by omega)

/-- Loading registers from `j` on leaves those past the last one alone. -/
theorem Coefs.get_load_above (vs : List Half) (c : Coefs) (i j : Nat) (hi : j + vs.length ≤ i) (h8 : i < 8) :
    (c.load j vs).get i = c.get i := by
  induction vs generalizing c j with
  | nil => rfl
  | cons v vs ih =>
    simp only [List.length_cons] at hi
    rw [Coefs.load, ih (c.set j v) (j + 1) (by omega), Coefs.get_set_other c i j v (by omega) (by omega) (by omega)]

end Sys2Proof.Machine
end

