-- ==== Sys2Proof/Laws/Ops.lean ====
section
/-!
SUPPORT. What the shared operations can do, each said once: the laws of the byte memory and of lane accesses,
that every memory operation keeps the canonical form, and one lemma per operation with a case distinction.
-/

namespace Sys2Proof.Machine

/-! ### Reading and writing bytes -/

/-- A byte other than the written one reads as before. -/
theorem readByte_writeByte_other (m : List Host.Cell) (a b : Nat) (v : Byte) (h : b ≠ a) :
    readByte (writeByte m a v) b = readByte m b := by
  induction m with
  | nil =>
    unfold writeByte
    split
    · rfl
    · exact if_neg (Ne.symm h)
  | cons c m ih =>
    obtain ⟨k, x⟩ := c
    unfold writeByte
    split
    · split
      · rfl
      · exact if_neg (Ne.symm h)
    · split
      · rename_i hk
        subst hk
        split
        · exact (if_neg (Ne.symm h)).symm
        · exact (if_neg (Ne.symm h)).trans (if_neg (Ne.symm h)).symm
      · simp only [readByte, ih]

/-- Below the first listed address every byte is an unlisted one. -/
theorem readByte_below (m : List Host.Cell) (lo a : Nat) (hm : memoryWfFrom lo m = true) (h : a < lo) :
    readByte m a = unlistedByte := by
  induction m generalizing lo with
  | nil => rfl
  | cons c m ih =>
    obtain ⟨k, x⟩ := c
    simp only [memoryWfFrom, Bool.and_eq_true, decide_eq_true_eq] at hm
    rw [readByte, if_neg (by omega)]
    exact ih (k + 1) hm.2 (by omega)

/-- The written byte reads as the value written, in a memory in canonical form. -/
theorem readByte_writeByte_same (m : List Host.Cell) (lo a : Nat) (v : Byte) (hm : memoryWfFrom lo m = true) :
    readByte (writeByte m a v) a = v := by
  induction m generalizing lo with
  | nil =>
    unfold writeByte
    split
    · next hv => rw [hv]; rfl
    · exact if_pos rfl
  | cons c m ih =>
    obtain ⟨k, x⟩ := c
    have hm' := hm
    simp only [memoryWfFrom, Bool.and_eq_true, decide_eq_true_eq] at hm
    unfold writeByte
    split
    · next hlt =>
      split
      · next hv =>
        rw [readByte, if_neg (by omega), hv]
        exact readByte_below m (k + 1) a hm.2 (by omega)
      · exact if_pos rfl
    · split
      · next hk =>
        subst hk
        split
        · next hv => rw [hv]; exact readByte_below m (a + 1) a hm.2 (by omega)
        · exact if_pos rfl
      · rw [readByte, if_neg (by omega)]
        exact ih (k + 1) hm.2

theorem memoryWfFrom_mono (m : List Host.Cell) (lo lo' : Nat) (h : lo' ≤ lo) (hm : memoryWfFrom lo m = true) :
    memoryWfFrom lo' m = true := by
  cases m with
  | nil => rfl
  | cons c m =>
    obtain ⟨k, x⟩ := c
    simp only [memoryWfFrom, Bool.and_eq_true, decide_eq_true_eq] at hm ⊢
    exact ⟨⟨⟨by omega, hm.1.1.2⟩, hm.1.2⟩, hm.2⟩

theorem memoryWfFrom_writeByte (m : List Host.Cell) (lo a : Nat) (v : Byte) (hm : memoryWfFrom lo m = true)
    (hlo : lo ≤ a) (ha : a < 2 ^ 32) : memoryWfFrom lo (writeByte m a v) = true := by
  induction m generalizing lo with
  | nil =>
    unfold writeByte
    split
    · rfl
    · next hv => simp only [memoryWfFrom, Bool.and_eq_true, decide_eq_true_eq]; exact ⟨⟨⟨hlo, ha⟩, hv⟩, trivial⟩
  | cons c m ih =>
    obtain ⟨k, x⟩ := c
    have hm' := hm
    simp only [memoryWfFrom, Bool.and_eq_true, decide_eq_true_eq] at hm
    obtain ⟨⟨⟨h1, h2⟩, h3⟩, h4⟩ := hm
    unfold writeByte
    split
    · next hlt =>
      split
      · exact hm'
      · next hv =>
        simp only [memoryWfFrom, Bool.and_eq_true, decide_eq_true_eq]
        exact ⟨⟨⟨hlo, ha⟩, hv⟩, ⟨⟨⟨by omega, h2⟩, h3⟩, h4⟩⟩
    · split
      · next hk =>
        subst hk
        split
        · exact memoryWfFrom_mono m (a + 1) lo (by omega) h4
        · next hv =>
          simp only [memoryWfFrom, Bool.and_eq_true, decide_eq_true_eq]
          exact ⟨⟨⟨hlo, ha⟩, hv⟩, h4⟩
      · simp only [memoryWfFrom, Bool.and_eq_true, decide_eq_true_eq]
        exact ⟨⟨⟨h1, h2⟩, h3⟩, ih (k + 1) h4 (by omega)⟩

/-- Writing a byte keeps the canonical form. -/
theorem wf_writeByte (m : List Host.Cell) (a : Word) (v : Byte) (hm : Memory.wf m = true) :
    Memory.wf (writeByte m a.toNat v) = true :=
  memoryWfFrom_writeByte m 0 a.toNat v hm (Nat.zero_le _) a.isLt

/-- Read after write, in one equation. -/
theorem readByte_writeByte (m : List Host.Cell) (a b : Nat) (v : Byte) (hm : Memory.wf m = true) :
    readByte (writeByte m a v) b = if b = a then v else readByte m b := by
  split
  · next h => rw [h]; exact readByte_writeByte_same m 0 a v hm
  · next h => exact readByte_writeByte_other m a b v h

theorem memory_ext_from (m n : List Host.Cell) (lo : Nat) (hm : memoryWfFrom lo m = true)
    (hn : memoryWfFrom lo n = true) (h : ∀ a, readByte m a = readByte n a) : m = n := by
  induction m generalizing n lo with
  | nil =>
    cases n with
    | nil => rfl
    | cons d n =>
      obtain ⟨j, y⟩ := d
      simp only [memoryWfFrom, Bool.and_eq_true, decide_eq_true_eq] at hn
      exact absurd ((h j).trans (if_pos rfl)).symm hn.1.2
  | cons c m ih =>
    obtain ⟨k, x⟩ := c
    cases n with
    | nil =>
      simp only [memoryWfFrom, Bool.and_eq_true, decide_eq_true_eq] at hm
      exact absurd ((if_pos rfl).symm.trans (h k)) hm.1.2
    | cons d n =>
      obtain ⟨j, y⟩ := d
      simp only [memoryWfFrom, Bool.and_eq_true, decide_eq_true_eq] at hm hn
      obtain hkj | hkj | hkj := Nat.lt_trichotomy k j
      · have hk := h k
        rw [readByte, if_pos rfl, readByte, if_neg (by omega), readByte_below n (j + 1) k hn.2 (by omega)] at hk
        exact absurd hk hm.1.2
      · subst hkj
        have hk := h k
        rw [readByte, if_pos rfl, readByte, if_pos rfl] at hk
        subst hk
        congr 1
        refine ih n (k + 1) hm.2 hn.2 fun a => ?_
        have ha := h a
        by_cases hak : k = a
        · subst hak
          rw [readByte_below m (k + 1) k hm.2 (by omega), readByte_below n (k + 1) k hn.2 (by omega)]
        · rwa [readByte, if_neg hak, readByte, if_neg hak] at ha
      · have hj := h j
        rw [readByte, if_neg (by omega), readByte, if_pos rfl, readByte_below m (k + 1) j hm.2 (by omega)] at hj
        exact absurd hj.symm hn.1.2

/-- Two memories in canonical form that read alike are the same data. -/
theorem memory_ext (m n : List Host.Cell) (hm : Memory.wf m = true) (hn : Memory.wf n = true)
    (h : ∀ a, readByte m a = readByte n a) : m = n := memory_ext_from m n 0 hm hn h

/-! ### Lanes -/

@[simp] theorem readLane_length (m : List Host.Cell) (a : Word) (n : Nat) : (readLane m a n).length = n := by
  simp [readLane]

/-- Element i of a loaded lane (R74). -/
theorem readLane_getElem (m : List Host.Cell) (a : Word) (n i : Nat) (h : i < (readLane m a n).length) :
    (readLane m a n)[i] = readByte m (a + BitVec.ofNat 32 i).toNat := by
  simp [readLane]

/-- Storing a lane keeps the canonical form. -/
theorem wf_writeLane (bs : List Byte) (m : List Host.Cell) (a : Word) (hm : Memory.wf m = true) :
    Memory.wf (writeLane m a bs) = true := by
  induction bs generalizing m a with
  | nil => exact hm
  | cons b bs ih => exact ih _ _ (wf_writeByte m a b hm)

theorem ofNat_succ_add (a : Word) (i : Nat) :
    a + 1#32 + BitVec.ofNat 32 i = a + BitVec.ofNat 32 (i + 1) := by
  rw [BitVec.add_assoc, Nat.add_comm i 1]
  congr 1
  exact (BitVec.ofNat_add 1 i).symm

/-- A byte no element of the lane goes to reads as before. -/
theorem readByte_writeLane_outside (bs : List Byte) (m : List Host.Cell) (a : Word) (b : Nat)
    (h : ∀ i < bs.length, (a + BitVec.ofNat 32 i).toNat ≠ b) : readByte (writeLane m a bs) b = readByte m b := by
  induction bs generalizing m a with
  | nil => rfl
  | cons x bs ih =>
    rw [writeLane, ih _ _ fun i hi => ?_, readByte_writeByte_other _ _ _ _ (Ne.symm (by simpa using h 0 (by simp)))]
    rw [ofNat_succ_add]
    exact h (i + 1) (by simpa using hi)

/-- Element i of a stored lane stands at `u32(A + i)` afterwards (R74). -/
theorem readByte_writeLane_inside (bs : List Byte) (m : List Host.Cell) (a : Word) (i : Nat) (b : Byte)
    (hm : Memory.wf m = true) (hl : bs.length ≤ 2 ^ 32) (h : bs[i]? = some b) :
    readByte (writeLane m a bs) (a + BitVec.ofNat 32 i).toNat = b := by
  induction bs generalizing m a i with
  | nil => simp at h
  | cons x bs ih =>
    simp only [List.length_cons] at hl
    cases i with
    | zero =>
      obtain rfl : x = b := by simpa using h
      rw [writeLane, readByte_writeLane_outside, readByte_writeByte _ _ _ _ hm, if_pos (by simp)]
      intro j hj
      rw [ofNat_succ_add]
      simp only [BitVec.toNat_add, BitVec.toNat_ofNat, ne_eq]
      omega
    | succ i =>
      rw [← ofNat_succ_add]
      exact ih _ _ i (wf_writeByte m a x hm) (by omega) (by simpa using h)

/-- Performing stores keeps the canonical form. -/
theorem wf_performStores (xs : List LaneStore) (m : List Host.Cell) (hm : Memory.wf m = true) :
    Memory.wf (performStores m xs) = true := by
  induction xs generalizing m with
  | nil => exact hm
  | cons x xs ih => exact ih _ (wf_writeLane x.data m x.addr hm)

/-- What it means that a store covers an address. -/
theorem LaneStore_covers_iff (st : LaneStore) (a : Nat) :
    ((List.range st.data.length).any fun i => decide ((st.addr + BitVec.ofNat 32 i).toNat = a)) = true ↔
      ∃ i < st.data.length, (st.addr + BitVec.ofNat 32 i).toNat = a := by
  simp

/-- A byte no performed store goes to reads as before. -/
theorem readByte_performStores_outside (xs : List LaneStore) (m : List Host.Cell) (b : Nat)
    (h : ∀ st ∈ xs, ∀ i < st.data.length, (st.addr + BitVec.ofNat 32 i).toNat ≠ b) :
    readByte (performStores m xs) b = readByte m b := by
  induction xs generalizing m with
  | nil => rfl
  | cons x xs ih =>
    refine (ih (writeLane m x.addr x.data) fun st hst => h st (List.mem_cons_of_mem _ hst)).trans ?_
    exact readByte_writeLane_outside x.data m x.addr b (h x List.mem_cons_self)

/-- Spoiling bytes keeps the canonical form. -/
theorem wf_spoil (xs : List Word) (m : List Host.Cell) (n : Nat) (hm : Memory.wf m = true) :
    Memory.wf (spoil m n xs) = true := by
  induction xs generalizing m n with
  | nil => exact hm
  | cons x xs ih => exact ih _ _ (wf_writeByte m x _ hm)

/-- A byte that is not spoiled reads as before. -/
theorem readByte_spoil_other (xs : List Word) (m : List Host.Cell) (n a : Nat) (h : ∀ x ∈ xs, x.toNat ≠ a) :
    readByte (spoil m n xs) a = readByte m a := by
  induction xs generalizing m n with
  | nil => rfl
  | cons x xs ih =>
    refine (ih _ (n + 1) fun y hy => h y (List.mem_cons_of_mem _ hy)).trans ?_
    exact readByte_writeByte_other m x.toNat a _ (Ne.symm (h x List.mem_cons_self))

/-- A spoiled byte holds a free value, one of those drawn for it. -/
theorem readByte_spoil_mem (xs : List Word) (m : List Host.Cell) (n : Nat) (a : Word) (hm : Memory.wf m = true)
    (h : a ∈ xs) : ∃ k, n ≤ k ∧ k < n + xs.length ∧
      readByte (spoil m n xs) a.toNat = (Config.freeWord k).setWidth 8 := by
  induction xs generalizing m n with
  | nil => exact absurd h List.not_mem_nil
  | cons x xs ih =>
    by_cases hx : a ∈ xs
    · obtain ⟨k, h1, h2, h3⟩ := ih (writeByte m x.toNat _) (n + 1) (wf_writeByte m x _ hm) hx
      exact ⟨k, by omega, by simp only [List.length_cons]; omega, h3⟩
    · obtain rfl : a = x := (List.mem_cons.mp h).resolve_right hx
      refine ⟨n, le_refl n, by simp, ?_⟩
      have ho : ∀ y ∈ xs, y.toNat ≠ a.toNat := fun y hy e => hx (BitVec.eq_of_toNat_eq e ▸ hy)
      refine (readByte_spoil_other xs _ (n + 1) a.toNat ho).trans ?_
      rw [readByte_writeByte _ _ _ _ hm, if_pos rfl]

/-- Without a race no byte is spoiled. -/
@[simp] theorem raceBytes_nil (src dst : View) (f : Nat → Nat → List (Nat × Nat)) : raceBytes src dst f [] = [] := rfl

/-- A spoiled byte is a byte of the destination, stored to by the other agent or computed from one it stored to. -/
theorem mem_raceBytes (src dst : View) (f : Nat → Nat → List (Nat × Nat)) (raced : List Word) (a : Word) :
    a ∈ raceBytes src dst f raced ↔ ∃ j < dst.rows, ∃ x < dst.width, dst.byteAddr j x = a ∧
      (a ∈ raced ∨ ∃ p ∈ f j x, src.byteAddr p.1 p.2 ∈ raced) := by
  unfold raceBytes
  split
  · simp
  · simp only [List.mem_flatMap, List.mem_range, List.mem_map, List.mem_filter, Bool.or_eq_true, List.any_eq_true,
      List.contains_iff_mem]
    constructor
    · rintro ⟨j, hj, x, ⟨hx, h⟩, rfl⟩
      exact ⟨j, hj, x, hx, rfl, h⟩
    · rintro ⟨j, hj, x, hx, rfl, h⟩
      exact ⟨j, hj, x, ⟨hx, h⟩, rfl⟩

@[simp] theorem resampleRace_of_none (s : State) (K : Kernel) (ro : RowOrder) (h : s.raced = []) :
    s.resampleRace K ro = [] := by rw [State.resampleRace, h]; rfl

@[simp] theorem hshiftRace_of_none (s : State) (ro : RowOrder) (h : s.raced = []) : s.hshiftRace ro = [] := by
  rw [State.hshiftRace, h]; rfl

/-- The canonical form of the memory at reset. -/
theorem wf_reset : Memory.wf State.reset.mem = true := rfl

/-! ### What each operation can do -/

/-- Completion (R259): every pending store is performed and the bytes of a race are spoiled, or nothing happens. -/
theorem complete_cases (s : State) (xs : List Word) :
    (s.pending.all s.admitsStore = true ∧
      s.complete xs = { s with
        mem := spoil (performStores s.mem s.pending) s.free xs
        free := s.free + xs.length
        raced := []
        pending := []
        pos := { group := 0#16, col := 0#12 }
        status := { s.status with busy := false, done := true } }) ∨
    (s.pending.all s.admitsStore = false ∧ s.complete xs = s) := by
  cases h : s.pending.all s.admitsStore with
  | true => exact .inl ⟨rfl, State.complete_of_admitted s xs h⟩
  | false => exact .inr ⟨rfl, State.complete_of_not_admitted s xs h⟩

/-- The port's turn (R82.2): the store named leaves PENDING for the memory, or nothing happens. -/
theorem performOne_cases (s : State) (k : Nat) :
    (∃ st, s.pending[k]? = some st ∧ s.admitsStore st = true ∧
      s.performOne k = { s with mem := writeLane s.mem st.addr st.data, pending := s.pending.eraseIdx k }) ∨
    s.performOne k = s := by
  unfold State.performOne
  split
  · next st hst =>
    split
    · next h => exact .inl ⟨st, hst, h, rfl⟩
    · exact .inr rfl
  · exact .inr rfl

/-- A step of a RESAMPLE: refused, waiting, one group of one column, or completion. -/
theorem resampleStep_cases (K : Kernel) (lw : LaneWidth) (ro : RowOrder) (s t : State)
    (h : resampleStep K lw ro s = .next t) :
    brokenPrecondition (laneBytes lw) s.srcView (s.dstView (2 * s.height)) = none ∧
    ((s.pos.group.toNat < groupCount K.scan s.height ∧
        s.admitsRows (s.srcView.ordered ro) (laneBytes lw) s.pos.col.toNat
          (K.sources s.height s.pos.group.toNat) = true ∧
        t = { s.issue (rowStores ((s.dstView (2 * s.height)).ordered ro) (laneBytes lw) s.pos.col.toNat
            (K.outputs s.height s.pos.group.toNat s.coefs
              (s.loadRow (s.srcView.ordered ro) (laneBytes lw) s.pos.col.toNat))) with
          pos := s.pos.next (s.width / laneBytes lw) }) ∨
      (s.pos.group.toNat < groupCount K.scan s.height ∧
        s.admitsRows (s.srcView.ordered ro) (laneBytes lw) s.pos.col.toNat
          (K.sources s.height s.pos.group.toNat) = false ∧ t = s) ∨
      (groupCount K.scan s.height ≤ s.pos.group.toNat ∧ t = s.complete (s.resampleRace K ro))) := by
  simp only [resampleStep] at h
  split at h
  · cases h
  · next hb =>
    refine ⟨hb, ?_⟩
    split at h
    · next hg =>
      split at h
      · next ha => exact .inl ⟨hg, ha, by injection h with h; exact h.symm⟩
      · next ha => exact .inr (.inl ⟨hg, by simpa using ha, by injection h with h; exact h.symm⟩)
    · next hg => exact .inr (.inr ⟨by omega, by injection h with h; exact h.symm⟩)

/-- A step of an HSHIFT: refused, waiting, one lane of a row, or completion. -/
theorem hshiftStep_cases (lw : LaneWidth) (ro : RowOrder) (s t : State) (h : hshiftStep lw ro s = .next t) :
    brokenPrecondition (laneBytes lw) s.srcView (s.dstView s.height) = none ∧
    ((s.pos.group.toNat < s.height ∧
        s.admitsRows (s.srcView.ordered ro) (laneBytes lw) s.pos.col.toNat [s.pos.group.toNat] = true ∧
        t = { s.issue (rowStores ((s.dstView s.height).ordered ro) (laneBytes lw) s.pos.col.toNat
            [(s.pos.group.toNat,
              hshiftLane (s.loadRow (s.srcView.ordered ro) (laneBytes lw) s.pos.col.toNat s.pos.group.toNat)
                (if s.pos.col.toNat = 0 then
                  (s.loadRow (s.srcView.ordered ro) (laneBytes lw) s.pos.col.toNat s.pos.group.toNat).headD 0#8
                else s.carry))]) with
          carry := (s.loadRow (s.srcView.ordered ro) (laneBytes lw) s.pos.col.toNat s.pos.group.toNat).getLastD 0#8
          pos := s.pos.next (s.width / laneBytes lw) }) ∨
      (s.pos.group.toNat < s.height ∧
        s.admitsRows (s.srcView.ordered ro) (laneBytes lw) s.pos.col.toNat [s.pos.group.toNat] = false ∧ t = s) ∨
      (s.height ≤ s.pos.group.toNat ∧ t = s.complete (s.hshiftRace ro))) := by
  simp only [hshiftStep] at h
  split at h
  · cases h
  · next hb =>
    refine ⟨hb, ?_⟩
    split at h
    · next hg =>
      split at h
      · next ha => exact .inl ⟨hg, ha, by injection h with h; exact h.symm⟩
      · next ha => exact .inr (.inl ⟨hg, by simpa using ha, by injection h with h; exact h.symm⟩)
    · next hg => exact .inr (.inr ⟨by omega, by injection h with h; exact h.symm⟩)

/-- A command word of a RESAMPLE: a step while busy, acceptance while idle. -/
theorem resample_cases (it : IType) (st : Siting) (sc : Scan) (lw : LaneWidth) (ro : RowOrder) (s : State) :
    (s.status.busy = true ∧ resample it st sc lw ro s = resampleStep (dispatch it st sc) lw ro s) ∨
    (s.status.busy = false ∧ resample it st sc lw ro s = .next (s.accept (resampleWord it st sc lw ro))) := by
  cases h : s.status.busy with
  | true => exact .inl ⟨rfl, by simp [resample, h]⟩
  | false => exact .inr ⟨rfl, by simp [resample, h]⟩

/-- A command word of a TAPGEN: its step while busy; acceptance or cause 4 while idle. -/
theorem tapgen_cases (st : Siting) (sc : Scan) (s : State) :
    (s.status.busy = true ∧ tapgen st sc s = tapgenStep st sc s) ∨
    (s.status.busy = false ∧ (finitePattern s.fb && finitePattern s.fc) = true ∧
      tapgen st sc s = .next (s.accept (tapgenWord st sc))) ∨
    (s.status.busy = false ∧ (finitePattern s.fb && finitePattern s.fc) = false ∧
      tapgen st sc s = .next (s.raiseCfgErr causeNonfinite)) := by
  cases h : s.status.busy with
  | true => exact .inl ⟨rfl, by simp [tapgen, h]⟩
  | false =>
    cases hf : finitePattern s.fb && finitePattern s.fc with
    | true => exact .inr (.inl ⟨rfl, rfl, by simp [tapgen, h, hf]⟩)
    | false => exact .inr (.inr ⟨rfl, rfl, by simp [tapgen, h, hf]⟩)

/-- All of P1 to P6 hold exactly when no precondition is reported as broken. -/
theorem brokenPrecondition_none (l : Nat) (src dst : View) :
    brokenPrecondition l src dst = none ↔
      (l ≤ src.width ∧ src.width % l = 0) ∧ (4 ≤ src.rows ∧ src.rows % 4 = 0) ∧
      (src.aligned l = true ∧ dst.aligned l = true) ∧ (src.spaced = true ∧ dst.spaced = true) ∧
      (src.inSpace = true ∧ dst.inSpace = true) ∧ src.disjoint dst = true := by
  unfold brokenPrecondition
  constructor
  · intro h
    split at h; · cases h
    split at h; · cases h
    split at h; · cases h
    split at h; · cases h
    split at h; · cases h
    split at h; · cases h
    simp_all
  · rintro ⟨⟨h1, h2⟩, ⟨h3, h4⟩, ⟨h5, h6⟩, ⟨h7, h8⟩, ⟨h9, h10⟩, h11⟩
    simp [Nat.not_lt.mpr h1, h2, Nat.not_lt.mpr h3, h4, h5, h6, h7, h8, h9, h10, h11]

/-- A host store: the byte is written and, in a plane of the command in progress, the race is noted; only a byte
the platform does not map is refused (R85, R86). -/
theorem hostStore_cases (s : State) (a : Word) (v : Byte) :
    (mappedByte s.limits a = true ∧ s.hostStore a v = .next { s with
      mem := writeByte s.mem a.toNat v, raced := if s.inUse a then s.raced.insert a else s.raced }) ∨
    (mappedByte s.limits a = false ∧ s.hostStore a v = .refused .platformUnmapped) := by
  unfold State.hostStore
  cases h : mappedByte s.limits a with
  | true => exact .inl ⟨rfl, by simp⟩
  | false => exact .inr ⟨rfl, by simp⟩

/-- A host load changes nothing but the value returned, and the counter of free values. -/
theorem hostLoad_cases (s t : State) (a : Word) (h : s.hostLoad a = .next t) :
    mappedByte s.limits a = true ∧ t = { s with hostData := t.hostData, free := t.free } := by
  unfold State.hostLoad at h
  simp only at h
  split at h
  · next hm =>
    refine ⟨hm, ?_⟩
    split at h
    · split at h <;> (injection h with h; subst h; rfl)
    · injection h with h; subst h; rfl
  · cases h

/-- The position after a step: the next column, or column 0 of the next group (R258). -/
theorem Pos.next_cases (p : Pos) (nc : Nat) :
    (p.col.toNat + 1 = nc ∧ p.next nc = { group := p.group + 1#16, col := 0#12 }) ∨
    (p.col.toNat + 1 ≠ nc ∧ p.next nc = { group := p.group, col := p.col + 1#12 }) := by
  unfold Pos.next
  split
  · next h => exact .inl ⟨h, rfl⟩
  · next h => exact .inr ⟨h, rfl⟩

/-- The stores that survive a reset are some of those pending, in their order (R322). -/
theorem survivors_sublist (n : Nat) (f : LaneStore → Bool) (xs : List LaneStore) : (survivors n f xs).Sublist xs := by
  induction xs generalizing n with
  | nil => exact List.Sublist.slnil
  | cons x xs ih =>
    unfold survivors
    split
    · exact (ih (n + 1)).cons_cons x
    · exact (ih (n + 1)).cons x

end Sys2Proof.Machine
end

