-- ==== Sys2Proof/Laws/PerInstr.lean ====
section
/-!
SUPPORT. Statements for all instructions, made one lemma per instruction.
-/

namespace Sys2Proof.Laws

open Sys2Proof

/-- A well-formed instruction decodes from its own word. -/
def RoundTrip.Statement (i : Instr) : Prop := i.wellFormed = true → decode (encode i) = .ok i

theorem RoundTrip.nop : RoundTrip.Statement .nop := fun _ => by decide

theorem RoundTrip.resamplePointS0P (lw : LaneWidth) (ro : RowOrder) : RoundTrip.Statement (.resamplePointS0P lw ro) := by
  cases lw <;> cases ro <;> exact fun _ => by decide

theorem RoundTrip.resamplePointS1P (lw : LaneWidth) (ro : RowOrder) : RoundTrip.Statement (.resamplePointS1P lw ro) := by
  cases lw <;> cases ro <;> exact fun _ => by decide

theorem RoundTrip.resamplePointS2P (lw : LaneWidth) (ro : RowOrder) : RoundTrip.Statement (.resamplePointS2P lw ro) := by
  cases lw <;> cases ro <;> exact fun _ => by decide

theorem RoundTrip.resamplePointS3P (lw : LaneWidth) (ro : RowOrder) : RoundTrip.Statement (.resamplePointS3P lw ro) := by
  cases lw <;> cases ro <;> exact fun _ => by decide

theorem RoundTrip.resamplePointS0I (lw : LaneWidth) (ro : RowOrder) : RoundTrip.Statement (.resamplePointS0I lw ro) := by
  cases lw <;> cases ro <;> exact fun _ => by decide

theorem RoundTrip.resamplePointS1I (lw : LaneWidth) (ro : RowOrder) : RoundTrip.Statement (.resamplePointS1I lw ro) := by
  cases lw <;> cases ro <;> exact fun _ => by decide

theorem RoundTrip.resamplePointS2I (lw : LaneWidth) (ro : RowOrder) : RoundTrip.Statement (.resamplePointS2I lw ro) := by
  cases lw <;> cases ro <;> exact fun _ => by decide

theorem RoundTrip.resamplePointS3I (lw : LaneWidth) (ro : RowOrder) : RoundTrip.Statement (.resamplePointS3I lw ro) := by
  cases lw <;> cases ro <;> exact fun _ => by decide

theorem RoundTrip.resampleLinearS0P (lw : LaneWidth) (ro : RowOrder) : RoundTrip.Statement (.resampleLinearS0P lw ro) := by
  cases lw <;> cases ro <;> exact fun _ => by decide

theorem RoundTrip.resampleLinearS1P (lw : LaneWidth) (ro : RowOrder) : RoundTrip.Statement (.resampleLinearS1P lw ro) := by
  cases lw <;> cases ro <;> exact fun _ => by decide

theorem RoundTrip.resampleLinearS2P (lw : LaneWidth) (ro : RowOrder) : RoundTrip.Statement (.resampleLinearS2P lw ro) := by
  cases lw <;> cases ro <;> exact fun _ => by decide

theorem RoundTrip.resampleLinearS3P (lw : LaneWidth) (ro : RowOrder) : RoundTrip.Statement (.resampleLinearS3P lw ro) := by
  cases lw <;> cases ro <;> exact fun _ => by decide

theorem RoundTrip.resampleLinearS0I (lw : LaneWidth) (ro : RowOrder) : RoundTrip.Statement (.resampleLinearS0I lw ro) := by
  cases lw <;> cases ro <;> exact fun _ => by decide

theorem RoundTrip.resampleLinearS1I (lw : LaneWidth) (ro : RowOrder) : RoundTrip.Statement (.resampleLinearS1I lw ro) := by
  cases lw <;> cases ro <;> exact fun _ => by decide

theorem RoundTrip.resampleLinearS2I (lw : LaneWidth) (ro : RowOrder) : RoundTrip.Statement (.resampleLinearS2I lw ro) := by
  cases lw <;> cases ro <;> exact fun _ => by decide

theorem RoundTrip.resampleLinearS3I (lw : LaneWidth) (ro : RowOrder) : RoundTrip.Statement (.resampleLinearS3I lw ro) := by
  cases lw <;> cases ro <;> exact fun _ => by decide

theorem RoundTrip.resampleCubicS0P (lw : LaneWidth) (ro : RowOrder) : RoundTrip.Statement (.resampleCubicS0P lw ro) := by
  cases lw <;> cases ro <;> exact fun _ => by decide

theorem RoundTrip.resampleCubicS1P (lw : LaneWidth) (ro : RowOrder) : RoundTrip.Statement (.resampleCubicS1P lw ro) := by
  cases lw <;> cases ro <;> exact fun _ => by decide

theorem RoundTrip.resampleCubicS2P (lw : LaneWidth) (ro : RowOrder) : RoundTrip.Statement (.resampleCubicS2P lw ro) := by
  cases lw <;> cases ro <;> exact fun _ => by decide

theorem RoundTrip.resampleCubicS3P (lw : LaneWidth) (ro : RowOrder) : RoundTrip.Statement (.resampleCubicS3P lw ro) := by
  cases lw <;> cases ro <;> exact fun _ => by decide

theorem RoundTrip.resampleCubicS0I (lw : LaneWidth) (ro : RowOrder) : RoundTrip.Statement (.resampleCubicS0I lw ro) := by
  cases lw <;> cases ro <;> exact fun _ => by decide

theorem RoundTrip.resampleCubicS1I (lw : LaneWidth) (ro : RowOrder) : RoundTrip.Statement (.resampleCubicS1I lw ro) := by
  cases lw <;> cases ro <;> exact fun _ => by decide

theorem RoundTrip.resampleCubicS2I (lw : LaneWidth) (ro : RowOrder) : RoundTrip.Statement (.resampleCubicS2I lw ro) := by
  cases lw <;> cases ro <;> exact fun _ => by decide

theorem RoundTrip.resampleCubicS3I (lw : LaneWidth) (ro : RowOrder) : RoundTrip.Statement (.resampleCubicS3I lw ro) := by
  cases lw <;> cases ro <;> exact fun _ => by decide

theorem RoundTrip.hshift (lw : LaneWidth) (ro : RowOrder) : RoundTrip.Statement (.hshift lw ro) := by
  cases lw <;> cases ro <;> exact fun _ => by decide

theorem RoundTrip.tapgenS0P : RoundTrip.Statement .tapgenS0P := fun _ => by decide

theorem RoundTrip.tapgenS1P : RoundTrip.Statement .tapgenS1P := fun _ => by decide

theorem RoundTrip.tapgenS2P : RoundTrip.Statement .tapgenS2P := fun _ => by decide

theorem RoundTrip.tapgenS3P : RoundTrip.Statement .tapgenS3P := fun _ => by decide

theorem RoundTrip.tapgenS0I : RoundTrip.Statement .tapgenS0I := fun _ => by decide

theorem RoundTrip.tapgenS1I : RoundTrip.Statement .tapgenS1I := fun _ => by decide

theorem RoundTrip.tapgenS2I : RoundTrip.Statement .tapgenS2I := fun _ => by decide

theorem RoundTrip.tapgenS3I : RoundTrip.Statement .tapgenS3I := fun _ => by decide

theorem RoundTrip.ldl : RoundTrip.Statement .ldl := fun _ => by decide

theorem RoundTrip.stl : RoundTrip.Statement .stl := fun _ => by decide

theorem RoundTrip.avg2 : RoundTrip.Statement .avg2 := fun _ => by decide

theorem RoundTrip.avg4 : RoundTrip.Statement .avg4 := fun _ => by decide

theorem RoundTrip.widenLo : RoundTrip.Statement .widenLo := fun _ => by decide

theorem RoundTrip.widenHi : RoundTrip.Statement .widenHi := fun _ => by decide

theorem RoundTrip.ilv16Lo : RoundTrip.Statement .ilv16Lo := fun _ => by decide

theorem RoundTrip.ilv16Hi : RoundTrip.Statement .ilv16Hi := fun _ => by decide

theorem RoundTrip.add16 : RoundTrip.Statement .add16 := fun _ => by decide

theorem RoundTrip.add32 : RoundTrip.Statement .add32 := fun _ => by decide

theorem RoundTrip.madd : RoundTrip.Statement .madd := fun _ => by decide

theorem RoundTrip.sra32 (imm : Nat) : RoundTrip.Statement (.sra32 imm) := by
  intro h
  have hn : imm < 32 := by simpa [Instr.wellFormed] using h
  interval_cases imm <;> decide

theorem RoundTrip.packs32 : RoundTrip.Statement .packs32 := fun _ => by decide

theorem RoundTrip.packus16 : RoundTrip.Statement .packus16 := fun _ => by decide

theorem RoundTrip.bcast : RoundTrip.Statement .bcast := fun _ => by decide

theorem RoundTrip.shiftIn : RoundTrip.Statement .shiftIn := fun _ => by decide

end Sys2Proof.Laws
end

