-- ==== Sys2Proof/Machine/HostProgram.lean ====
section
/-!
DEFINITION. Host programs (spec 30_encoding R114 to R116): the host statements, the pseudo-instructions as the
register accesses they stand for, and one turn of a host that runs them in order. No pseudo-instruction has a
word of its own, and nothing of this is state of the block.
-/

namespace Sys2Proof.Machine

/-- What one host statement comes to: an access of a register, or one poll of `wait` (R115). -/
inductive HostAction where
  /-- `wr <REG>, <value>` -/
  | wr (index : BitVec 6) (value : Word)
  /-- `rd <REG>` -/
  | rd (index : BitVec 6)
  /-- `wait`: `rd STATUS` until DONE is 1 -/
  | wait
deriving DecidableEq, Repr

/-- A plane as the host names it: base address and stride. -/
structure HostPlane where
  base : Word
  stride : Int
deriving DecidableEq, Repr

/-- `<command>` (R114, R115): `wr CMD` with the word of the command; a lane operation is no host statement (R117). -/
def hostCommand (i : Instr) : List HostAction :=
  match encode i with
  | .cmd w => [.wr 0#6 w]
  | .lop _ => []

/-- `ack` (R115): clear DONE, CFGERR and OVR. -/
def hostAck : List HostAction := [.wr 1#6 0xE#32]

/-- `setsrc` (R115). -/
def hostSetSrc (p : HostPlane) : List HostAction := [.wr 4#6 p.base, .wr 5#6 (BitVec.ofInt 32 p.stride)]

/-- `setdst` (R115). -/
def hostSetDst (p : HostPlane) : List HostAction := [.wr 6#6 p.base, .wr 7#6 (BitVec.ofInt 32 p.stride)]

/-- `setdim` (R115). -/
def hostSetDim (w h : Nat) : List HostAction := [.wr 8#6 (BitVec.ofNat 32 w), .wr 9#6 (BitVec.ofNat 32 h)]

/-- `setshape` (R115), from the binary64 patterns of b and c. -/
def hostSetShape (b c : BitVec 64) : List HostAction :=
  [.wr 12#6 (b.extractLsb' 0 32), .wr 13#6 (b.extractLsb' 32 32), .wr 14#6 (c.extractLsb' 0 32),
    .wr 15#6 (c.extractLsb' 32 32)]

/-- `loadcoef` (R115), from coefficient register `j` on. -/
def hostLoadCoef (j : Nat) : List Int → List HostAction
  | [] => []
  | t :: ts => .wr (BitVec.ofNat 6 (16 + j)) (BitVec.ofInt 32 t) :: hostLoadCoef (j + 1) ts

/-- The two chroma planes of a frame (R116). -/
inductive ChromaPlane where
  | u | v
deriving DecidableEq, Repr

/-- The row order of a plane in `convert` (R116): bottom-up for the plane of a DV-PAL frame (siting 3) that the host
sets `.bu` on, if it sets it on one; top-down for every other plane and siting. -/
def hostRowOrder (st : Siting) (mirrored : Option ChromaPlane) (p : ChromaPlane) : RowOrder :=
  if st = .s3 ∧ mirrored = some p then .bottomUp else .topDown

/-- One plane of `convert` (R116): source, base of the scratch plane of the horizontal filter, destination. The
scratch plane has the stride of the source. -/
def hostConvertPlane (it : IType) (st : Siting) (sc : Scan) (lshift : Bool) (lw : LaneWidth) (ro : RowOrder)
    (src : HostPlane) (scratchBase : Word) (dst : HostPlane) : List HostAction :=
  let scratch : HostPlane := { src with base := scratchBase }
  (if lshift then
    hostSetSrc src ++ hostSetDst scratch ++ hostCommand (.hshift lw .topDown) ++ [.wait] ++ hostSetSrc scratch
  else hostSetSrc src) ++
  hostSetDst dst ++ hostCommand (resampleInstr it st sc lw ro) ++ [.wait]

/-- `convert` (R116): the taps when the type is cubic, the size, and plane U before plane V. With siting
3 the host mirrors one of the planes, by `.bu` as `mirrored` says or, when that is none, by a negative stride
(R332). -/
def hostConvert (it : IType) (st : Siting) (sc : Scan) (lshift : Bool) (lw : LaneWidth) (b c : BitVec 64)
    (w h : Nat) (mirrored : Option ChromaPlane) (u : HostPlane) (tu : Word) (ud v : HostPlane) (tv : Word)
    (vd : HostPlane) : List HostAction :=
  (if it = .cubic then hostSetShape b c ++ hostCommand (tapgenInstr st sc) ++ [.wait] else []) ++
  hostSetDim w h ++ hostConvertPlane it st sc lshift lw (hostRowOrder st mirrored .u) u tu ud ++
  hostConvertPlane it st sc lshift lw (hostRowOrder st mirrored .v) v tv vd

/-- One turn of the host: its next access, with what is left of its program. A poll of `wait` that reads DONE = 0
leaves the program where it is. -/
def hostTurn (prog : List HostAction) (s : State) : Host.Outcome (List HostAction × State) Fault Refusal :=
  match prog with
  | [] => .next ([], s)
  | a :: rest =>
    let e : Event := match a with
      | .wr n v => .write n v
      | .rd n => .read n
      | .wait => .read 1#6
    match step { s with events := e :: s.events } with
    | .next t => .next (if a = .wait ∧ t.hostData.getLsbD 1 = false then (prog, t) else (rest, t))
    | .fault f => .fault f
    | .refused r => .refused r

end Sys2Proof.Machine
end

