-- ==== Sys2Proof/Tests/Slice0.lean ====
section
/-!
SUPPORT. Tests: the WellFormed smoke, decoding of every constructor from a written-out word, vectors of spec
95_test_vectors for one step each, and for every obligation with hypotheses a witness that meets them.
Expected values come from the spec's tables; each test names its vector or rule.
-/

namespace Sys2Proof.Tests

open Sys2Proof Sys2Proof.Machine

-- one theorem at a time: the kernel evaluations below would otherwise each hold a thread with a large stack
set_option Elab.async false

/-! ### Helpers -/

/-- The next state of an outcome; the reset state where it stops. -/
def after : Host.Outcome State Fault Refusal → State
  | .next s => s
  | _ => State.reset

/-- The state of a `next` outcome, if it is one. -/
def next? : Host.Outcome State Fault Refusal → Option State
  | .next s => some s
  | _ => none

/-- The name of a refusal, if the outcome is one. -/
def refusal? : Host.Outcome State Fault Refusal → Option Refusal
  | .refused r => some r
  | _ => none

/-- Source rows of 16 equal bytes at 0x1000, 0x1010, ... (program P1). -/
def rowsMem : Word → List Nat → List Host.Cell
  | _, [] => []
  | a, v :: vs => writeLane (rowsMem (a + 16#32) vs) a (List.replicate 16 (BitVec.ofNat 8 v))

/-- Catmull-Rom coefficients in the order of V-T1, siting 2 interlaced (`CR8e`), or any other list. -/
def coefsOf (cs : List Int) : Coefs := State.reset.coefs.load 0 (cs.map (BitVec.ofInt 16))

/-- An idle block with the geometry of P1: W = 16, H = 4, planes at 0x1000 and 0x2000, strides of 16. -/
def idle : State :=
  { State.reset with
    ops := { srcBase := 0x1000#32, srcStride := 16#32, dstBase := 0x2000#32, dstStride := 16#32
             width := 16#16, height := 4#16 }
    mem := rowsMem 0x1000#32 [10, 20, 30, 40] }

/-- The same block with a command in progress at a group. -/
def busyAt (w : Word) (group : Nat) (cs : List Int) : State :=
  { idle with
    status := { idle.status with busy := true }
    last := w
    pos := { group := BitVec.ofNat 16 group, col := 0#12 }
    coefs := coefsOf cs }

/-- The addresses and first bytes of the stores one step issues. -/
def stores (i : Instr) (s : State) : List (Nat × Nat) :=
  (after (exec i s)).pending.map fun st => (st.addr.toNat, (st.data.headD 0#8).toNat)

/-- A block whose lane unit holds these ports (lanes of 16 bytes). -/
def unit (a b c d : BitVec 256) : State := { State.reset with lane := { State.reset.lane with a, b, c, d } }

/-- Byte lanes, half-word lanes and word lanes written as numbers. -/
def bl (xs : List Nat) : BitVec 256 := ofBytes (xs.map (BitVec.ofNat 8))
def hl (xs : List Int) : BitVec 256 := ofHalves (xs.map (BitVec.ofInt 16))
def wl (xs : List Int) : BitVec 256 := ofWords (xs.map (BitVec.ofInt 32))

/-- The result port after an operation. -/
def result (i : Instr) (s : State) : BitVec 256 := (after (exec i s)).lane.result

/-! ### WellFormed: the one ill-formed shape is refused -/

theorem test_sra32_by_32_is_ill_formed : (Instr.sra32 32).wellFormed = false := by decide
theorem test_sra32_by_31_is_well_formed : (Instr.sra32 31).wellFormed = true := by decide

/-! ### Decoding, from words written out by the tables of R100, R110, R112 and R113 -/

/-- V-D2: the Point words, fields BU LANEW INTERLACED SITING ITYPE OP from the left. -/
theorem test_decode_point :
    decode (.cmd 0b0_0_0_00_00_0001#32) = .ok (.resamplePointS0P .w16 .topDown) ∧
    decode (.cmd 0b0_0_0_01_00_0001#32) = .ok (.resamplePointS1P .w16 .topDown) ∧
    decode (.cmd 0b0_1_0_10_00_0001#32) = .ok (.resamplePointS2P .w32 .topDown) ∧
    decode (.cmd 0b1_0_0_11_00_0001#32) = .ok (.resamplePointS3P .w16 .bottomUp) ∧
    decode (.cmd 0b0_0_1_00_00_0001#32) = .ok (.resamplePointS0I .w16 .topDown) ∧
    decode (.cmd 0b1_1_1_01_00_0001#32) = .ok (.resamplePointS1I .w32 .bottomUp) ∧
    decode (.cmd 0b0_0_1_10_00_0001#32) = .ok (.resamplePointS2I .w16 .topDown) ∧
    decode (.cmd 0b0_0_1_11_00_0001#32) = .ok (.resamplePointS3I .w16 .topDown) := by decide

/-- V-D1 and V-D2: the Linear words. -/
theorem test_decode_linear :
    decode (.cmd 0b0_0_0_00_01_0001#32) = .ok (.resampleLinearS0P .w16 .topDown) ∧
    decode (.cmd 0b0_0_0_01_01_0001#32) = .ok (.resampleLinearS1P .w16 .topDown) ∧
    decode (.cmd 0b0_1_0_10_01_0001#32) = .ok (.resampleLinearS2P .w32 .topDown) ∧
    decode (.cmd 0b0_0_0_11_01_0001#32) = .ok (.resampleLinearS3P .w16 .topDown) ∧
    decode (.cmd 0b1_0_1_00_01_0001#32) = .ok (.resampleLinearS0I .w16 .bottomUp) ∧
    decode (.cmd 0b0_0_1_01_01_0001#32) = .ok (.resampleLinearS1I .w16 .topDown) ∧
    decode (.cmd 0b0_1_1_10_01_0001#32) = .ok (.resampleLinearS2I .w32 .topDown) ∧
    decode (.cmd 0b0_0_1_11_01_0001#32) = .ok (.resampleLinearS3I .w16 .topDown) := by decide

/-- V-D1 and V-D2: the Cubic words. -/
theorem test_decode_cubic :
    decode (.cmd 0b0_0_0_00_10_0001#32) = .ok (.resampleCubicS0P .w16 .topDown) ∧
    decode (.cmd 0b0_0_0_01_10_0001#32) = .ok (.resampleCubicS1P .w16 .topDown) ∧
    decode (.cmd 0b1_0_0_10_10_0001#32) = .ok (.resampleCubicS2P .w16 .bottomUp) ∧
    decode (.cmd 0b0_0_0_11_10_0001#32) = .ok (.resampleCubicS3P .w16 .topDown) ∧
    decode (.cmd 0b0_1_1_00_10_0001#32) = .ok (.resampleCubicS0I .w32 .topDown) ∧
    decode (.cmd 0b0_0_1_01_10_0001#32) = .ok (.resampleCubicS1I .w16 .topDown) ∧
    decode (.cmd 0b0_0_1_10_10_0001#32) = .ok (.resampleCubicS2I .w16 .topDown) ∧
    decode (.cmd 0b1_1_1_11_10_0001#32) = .ok (.resampleCubicS3I .w32 .bottomUp) := by decide

/-- R110 and V-T1: NOP, HSHIFT and the TAPGEN words. -/
theorem test_decode_other_commands :
    decode (.cmd 0x00000000#32) = .ok .nop ∧
    decode (.cmd 0x00000202#32) = .ok (.hshift .w32 .topDown) ∧
    decode (.cmd 0x00000402#32) = .ok (.hshift .w16 .bottomUp) ∧
    decode (.cmd 0x00000003#32) = .ok .tapgenS0P ∧ decode (.cmd 0x00000043#32) = .ok .tapgenS1P ∧
    decode (.cmd 0x00000083#32) = .ok .tapgenS2P ∧ decode (.cmd 0x000000C3#32) = .ok .tapgenS3P ∧
    decode (.cmd 0x00000103#32) = .ok .tapgenS0I ∧ decode (.cmd 0x00000143#32) = .ok .tapgenS1I ∧
    decode (.cmd 0x00000183#32) = .ok .tapgenS2I ∧ decode (.cmd 0x000001C3#32) = .ok .tapgenS3I := by decide

/-- R112 and R113: the lane selects, IMM then LOP. -/
theorem test_decode_lane_selects :
    decode (.lop 0b00000_0000#9) = .ok .ldl ∧ decode (.lop 0b00000_0001#9) = .ok .stl ∧
    decode (.lop 0b00000_0010#9) = .ok .avg2 ∧ decode (.lop 0b00000_0011#9) = .ok .avg4 ∧
    decode (.lop 0b00000_0100#9) = .ok .widenLo ∧ decode (.lop 0b00000_0101#9) = .ok .widenHi ∧
    decode (.lop 0b00000_0110#9) = .ok .ilv16Lo ∧ decode (.lop 0b00000_0111#9) = .ok .ilv16Hi ∧
    decode (.lop 0b00000_1000#9) = .ok .add16 ∧ decode (.lop 0b00000_1001#9) = .ok .add32 ∧
    decode (.lop 0b00000_1010#9) = .ok .madd ∧ decode (.lop 0b00011_1011#9) = .ok (.sra32 3) ∧
    decode (.lop 0b00000_1100#9) = .ok .packs32 ∧ decode (.lop 0b00000_1101#9) = .ok .packus16 ∧
    decode (.lop 0b00000_1110#9) = .ok .bcast ∧ decode (.lop 0b00000_1111#9) = .ok .shiftIn := by decide

/-- V-D1: the words that are rejected, each with its cause. -/
theorem test_decode_rejects :
    decode (.cmd 0x00000010#32) = .error .mbz ∧ decode (.cmd 0x00000004#32) = .error .rsvdOp ∧
    decode (.cmd 0x00000801#32) = .error .mbz ∧ decode (.cmd 0x00000042#32) = .error .mbz ∧
    decode (.cmd 0x00000243#32) = .error .mbz ∧ decode (.cmd 0x00000033#32) = .error .mbz ∧
    decode (.cmd 0x80000001#32) = .error .mbz ∧ decode (.lop 0b00001_0000#9) = .error .rsvdSelect := by decide

/-! ### One step of each kernel, for every instruction that runs it (V-K1 and V-C1, S = 10, 20, 30, 40) -/

theorem test_step_ptP : ∀ i ∈ [Instr.resamplePointS0P .w16 .topDown, .resamplePointS1P .w16 .topDown,
    .resamplePointS2P .w16 .topDown, .resamplePointS3P .w16 .topDown],
    stores i (busyAt 0x041#32 1 []) = [(0x2020, 20), (0x2030, 20)] := by decide +kernel

theorem test_step_ptI : ∀ i ∈ [Instr.resamplePointS0I .w16 .topDown, .resamplePointS1I .w16 .topDown,
    .resamplePointS2I .w16 .topDown, .resamplePointS3I .w16 .topDown],
    stores i (busyAt 0x141#32 1 []) = [(0x2040, 30), (0x2050, 40), (0x2060, 30), (0x2070, 40)] := by decide +kernel

theorem test_step_linHalfP : ∀ i ∈ [Instr.resampleLinearS0P .w16 .topDown, .resampleLinearS1P .w16 .topDown,
    .resampleLinearS3P .w16 .topDown],
    stores i (busyAt 0x051#32 2 []) = [(0x2040, 30), (0x2050, 35)] := by decide +kernel

theorem test_step_linHalfI : stores (.resampleLinearS1I .w16 .topDown) (busyAt 0x151#32 0 []) =
    [(0x2000, 10), (0x2010, 20), (0x2020, 20), (0x2030, 30)] := by decide +kernel

theorem test_step_linXfI : ∀ i ∈ [Instr.resampleLinearS0I .w16 .topDown, .resampleLinearS3I .w16 .topDown],
    stores i (busyAt 0x111#32 0 []) = [(0x2000, 10), (0x2010, 20), (0x2020, 23), (0x2030, 27)] := by decide +kernel

theorem test_step_linQP : stores (.resampleLinearS2P .w16 .topDown) (busyAt 0x091#32 1 []) =
    [(0x2020, 18), (0x2030, 23)] := by decide +kernel

theorem test_step_linEI : stores (.resampleLinearS2I .w16 .topDown) (busyAt 0x191#32 0 []) =
    [(0x2000, 10), (0x2010, 20), (0x2020, 18), (0x2030, 23)] := by decide +kernel

theorem test_step_cubSymP : ∀ i ∈ [Instr.resampleCubicS0P .w16 .topDown, .resampleCubicS3P .w16 .topDown],
    stores i (busyAt 0x021#32 2 [576, -64]) = [(0x2040, 30), (0x2050, 36)] := by decide +kernel

theorem test_step_cubSymI : ∀ i ∈ [Instr.resampleCubicS0I .w16 .topDown, .resampleCubicS3I .w16 .topDown],
    stores i (busyAt 0x121#32 1 [576, -64]) = [(0x2040, 30), (0x2050, 40), (0x2060, 31), (0x2070, 41)] := by
  decide +kernel

theorem test_step_cubQP : ∀ i ∈ [Instr.resampleCubicS1P .w16 .topDown, .resampleCubicS2P .w16 .topDown],
    stores i (busyAt 0x061#32 1 [-24, 232, 888, -72]) = [(0x2020, 17), (0x2030, 23)] := by decide +kernel

theorem test_step_cub8I : ∀ i ∈ [Instr.resampleCubicS1I .w16 .topDown, .resampleCubicS2I .w16 .topDown],
    stores i (busyAt 0x1A1#32 0 [-7, 93, 987, -49, -75, 745, 399, -45]) =
      [(0x2000, 9), (0x2010, 19), (0x2020, 17), (0x2030, 22)] := by decide +kernel

/-- V-M2: K_CUB_SYM_P bottom-up; step 0 reads the last row and writes the last two (row 7 is 40, row 6 is 36). -/
theorem test_step_bottomUp : stores (.resampleCubicS0P .w16 .bottomUp) (busyAt 0x421#32 0 [576, -64]) =
    [(0x2070, 40), (0x2060, 36)] := by decide +kernel

/-- V-D3: POS and STATUS while K_CUB_Q_P runs on H = 4, at groups 1 and 2. -/
theorem test_live_clamps :
    (busyAt 0x061#32 1 []).statusWord = 0x11#32 ∧ (busyAt 0x061#32 2 []).statusWord = 0x21#32 ∧
    (busyAt 0x061#32 2 []).readReg 10#6 = 2#32 := by decide +kernel

/-- V-H1: the first row, and the carry it leaves. -/
theorem test_step_hshift :
    (after (exec (.hshift .w16 .topDown)
      { busyAt 0x002#32 0 [] with
        mem := writeLane [] 0x1000#32 ((List.range 16).map fun x => BitVec.ofNat 8 (10 * x + 10)) })).pending =
      [{ addr := 0x2000#32, data := [10, 18, 28, 38, 48, 58, 68, 78, 88, 98, 108, 118, 128, 138, 148, 158] }] := by
  decide +kernel

/-- V-H2: in column 1 the left neighbour of element 0 is the carry: (600 + 100 + 2) / 4 = 175. -/
theorem test_step_hshift_carry :
    let s : State :=
      { busyAt 0x002#32 0 [] with
        ops := { idle.ops with srcStride := 32#32, dstStride := 32#32, width := 32#16 }
        pos := { group := 0#16, col := 1#12 }
        carry := 100#8
        mem := writeLane [] 0x1010#32 (List.replicate 16 200#8) }
    stores (.hshift .w16 .topDown) s = [(0x2010, 175)] ∧ (after (exec (.hshift .w16 .topDown) s)).carry = 200#8 := by
  decide +kernel

/-! ### TAPGEN -/

/-- The coefficient registers, as signed numbers, after the step of a TAPGEN with b = 0 and FC = `fcHi`:0. -/
def taps (i : Instr) (fcHi : Word) : List Int :=
  let t := after (exec i { busyAt 0x003#32 0 [] with shape := { idle.shape with fcHi := fcHi } })
  (List.range 8).map fun j => (t.coefs.get j).toInt

/-- V-T1, V-T2 and V-T3: shapes (0, 0.5), (0, 0.75), (0, 1/256). -/
theorem test_tapgen_two :
    taps .tapgenS0P 0x3F700000#32 = [513, -1, 0, 0, 0, 0, 0, 0] ∧
    taps .tapgenS3P 0x3FE80000#32 = [608, -96, 0, 0, 0, 0, 0, 0] ∧
    taps .tapgenS0I 0x3FE00000#32 = [576, -64, 0, 0, 0, 0, 0, 0] ∧
    taps .tapgenS3I 0x3FE00000#32 = [576, -64, 0, 0, 0, 0, 0, 0] := by decide +kernel

theorem test_tapgen_four :
    taps .tapgenS1P 0x3FE80000#32 = [-36, 268, 900, -108, 0, 0, 0, 0] ∧
    taps .tapgenS2P 0x3FE00000#32 = [-24, 232, 888, -72, 0, 0, 0, 0] := by decide +kernel

theorem test_tapgen_eight :
    taps .tapgenS1I 0x3FE00000#32 = [-24, 232, 888, -72, -72, 888, 232, -24] ∧
    taps .tapgenS2I 0x3FE80000#32 = [-11, 118, 991, -74, -113, 768, 437, -68] := by decide +kernel

/-- V-T5: an infinite b is rejected with cause 4; the smallest subnormal is accepted. -/
theorem test_tapgen_nonfinite :
    (after (exec .tapgenS1P { idle with shape := { idle.shape with fbHi := 0x7FF00000#32 } })).statusWord = 0x404#32 ∧
    (after (exec .tapgenS1P { idle with shape := { idle.shape with fbLo := 1#32 } })).statusWord = 0x001#32 := by
  decide +kernel

/-! ### The lane unit (lanes of 16 bytes) -/

/-- V-L1 and V-L2. -/
theorem test_lane_averages :
    result .avg2 (unit (bl [0, 0, 10, 127, 254, 255]) (bl [0, 1, 13, 128, 255, 0]) 0 0) =
      bl [0, 1, 12, 128, 255, 128] ∧
    result .avg4 (unit (bl [0, 1, 0, 1, 254]) (bl [0, 1, 1, 2, 255]) (bl [0, 1, 1, 3, 0]) (bl [1, 0, 2, 4, 1])) =
      bl [0, 1, 1, 3, 128] := by decide +kernel

/-- V-L3. -/
theorem test_lane_widen_interleave :
    let a := bl [0, 255, 1, 254, 2, 253, 3, 252, 4, 251, 5, 250, 6, 249, 7, 248]
    let p := hl [1, 2, 3, 4, 5, 6, 7, 8]
    let q := hl [11, 12, 13, 14, 15, 16, 17, 18]
    result .widenLo (unit a 0 0 0) = hl [0, 255, 1, 254, 2, 253, 3, 252] ∧
    result .widenHi (unit a 0 0 0) = hl [4, 251, 5, 250, 6, 249, 7, 248] ∧
    result .ilv16Lo (unit p q 0 0) = hl [1, 11, 2, 12, 3, 13, 4, 14] ∧
    result .ilv16Hi (unit p q 0 0) = hl [5, 15, 6, 16, 7, 17, 8, 18] := by decide +kernel

/-- V-L4; the sums wrap (R158, R159). -/
theorem test_lane_arithmetic :
    result .add16 (unit (hl [32767, -1, 5]) (hl [1, 1, -7]) 0 0) = hl [-32768, 0, -2] ∧
    result .add32 (unit (wl [2147483647, -1]) (wl [1, 1]) 0 0) = wl [-2147483648, 0] ∧
    result .madd (unit (hl [100, 200, 0, 255, 255, 255, 1, 1]) (hl [888, -72, 888, -72, 888, -72, 888, -72]) 0 0) =
      wl [74400, -18360, 208080, 816] ∧
    result (.sra32 10) (unit (wl [74912, -88, -1025, 1023]) 0 0 0) = wl [73, -1, -2, 0] := by decide +kernel

/-- V-L4. -/
theorem test_lane_packs :
    result .packs32 (unit (wl [70000, -70000, -5, 255]) (wl [1, 2, 3, 4]) 0 0) =
      hl [32767, -32768, -5, 255, 1, 2, 3, 4] ∧
    result .packus16 (unit (hl [-5, 0, 255, 256, 32767, -32768, 7, 8]) (hl [1, 2, 3, 4, 5, 6, 7, 300]) 0 0) =
      bl [0, 0, 255, 255, 255, 0, 7, 8, 1, 2, 3, 4, 5, 6, 7, 255] := by decide +kernel

/-- V-L8. -/
theorem test_lane_bcast_shiftIn :
    let s := unit (bl [1, 2, 3, 4, 5, 6, 7, 8, 9, 10, 11, 12, 13, 14, 15, 16]) 0 0 0
    result .bcast { s with lane := { s.lane with p0 := BitVec.ofInt 16 (-24), p1 := 232#16 } } =
      hl [-24, 232, -24, 232, -24, 232, -24, 232] ∧
    result .shiftIn { s with lane := { s.lane with cy := 9#8 } } =
      bl [9, 1, 2, 3, 4, 5, 6, 7, 8, 9, 10, 11, 12, 13, 14, 15] := by decide +kernel

/-- R150, R151 and R74: element 0 is at the lowest address; an STL waits in PENDING. -/
theorem test_lane_memory :
    result .ldl { idle with lane := { idle.lane with addr := 0x1010#32 } } = bl (List.replicate 16 20) ∧
    ((after (exec .stl { idle with lane := { idle.lane with addr := 0x2000#32, a := bl [7, 8] } })).pending.map
      fun st => (st.addr, st.data.take 3)) = [(0x2000#32, [7#8, 8#8, 0#8])] := by decide +kernel

/-- V-L5, V-L6 and V-L7 on whole lanes. -/
theorem test_composites :
    mac4 (BitVec.ofInt 16 (-24)) 232 888 (BitVec.ofInt 16 (-72)) (List.replicate 16 255) (List.replicate 16 0)
      (List.replicate 16 0) (List.replicate 16 255) = List.replicate 16 0 ∧
    macsym 576 (BitVec.ofInt 16 (-64)) (List.replicate 16 10) (List.replicate 16 20) (List.replicate 16 30)
      (List.replicate 16 40) = List.replicate 16 25 ∧
    blend 171 85 8 (List.replicate 16 20) (List.replicate 16 30) = List.replicate 16 23 ∧
    blend 5 3 3 (List.replicate 32 100) (List.replicate 32 20) = List.replicate 32 70 := by decide +kernel

/-! ### Registers, exceptions, the port -/

/-- The state after one host access. -/
def access (e : Event) (s : State) : State := after (step { s with events := [e] })

/-- V-R2. -/
theorem test_register_writes :
    (access (.write 8#6 0x12345678#32) idle).readReg 8#6 = 0x5678#32 ∧
    (access (.write 16#6 0x0001FFE8#32) idle).readReg 16#6 = 0xFFFFFFE8#32 ∧
    (access (.write 2#6 0xFFFFFFFF#32) idle).readReg 2#6 = 1#32 ∧
    (access (.write 3#6 0#32) idle).readReg 3#6 = 0x43520107#32 ∧
    (access (.write 11#6 0xFFFFFFFF#32) idle).readReg 11#6 = 0#32 ∧
    (access (.write 10#6 5#32) idle).readReg 10#6 = 0#32 := by decide +kernel

/-- V-E1: the rejection, and its acknowledgement. -/
theorem test_cfgerr :
    (access (.write 0#6 0x31#32) { idle with ie := true }).statusWord = 0x304#32 ∧
    (access (.write 0#6 0x31#32) { idle with ie := true }).irq = true ∧
    (access (.write 1#6 4#32) (access (.write 0#6 0x31#32) idle)).statusWord = 0x300#32 ∧
    (access (.write 0#6 0#32) (access (.write 0#6 4#32) idle)).statusWord = 0x106#32 := by decide +kernel

/-- V-E2: a command word while busy is dropped. -/
theorem test_overrun :
    (access (.write 0#6 0#32) (busyAt 0x041#32 1 [])).statusWord = 0x9#32 ∧
    (access (.write 0#6 0#32) (busyAt 0x041#32 1 [])).readReg 0#6 = 0x41#32 ∧
    (access (.write 8#6 32#32) (busyAt 0x041#32 1 [])).readReg 8#6 = 16#32 := by decide +kernel

/-- R82 and R259: the port performs a pending store on its turn; completion performs the rest. -/
theorem test_pending_performed :
    let s : State := { busyAt 0x041#32 4 [] with pending := [{ addr := 0x2000#32, data := [1, 2] }] }
    readByte (access (.perform 0) s).mem 0x2001 = 2#8 ∧ (access (.perform 0) s).pending = [] ∧
    readByte (access .sequencer s).mem 0x2000 = 1#8 ∧ (access .sequencer s).statusWord = 2#32 := by decide +kernel

/-- V-M1. -/
theorem test_mirror :
    (idle.srcView.mirror.rowAddr 0, idle.srcView.mirror.stride) = (0x1030#32, -16) ∧
    View.laneAddr { base := 0x2000#32, stride := 64, width := 32, rows := 8 } 16 5 1 = 0x2150#32 := by decide +kernel

/-- A table word placed by `withFetchWord` is what the next step runs. -/
theorem test_fetch_word :
    (after (step (State.reset.withFetchWord 32 0x41))).last = 0x41#32 ∧
    (next? (step (State.reset.withFetchWord 16 2))).isSome = true := by decide +kernel

/-- R115, R116 and program P3: a `convert` with the horizontal filter starts with the size, gives the scratch plane
the stride of its source, and ends with a wait after the RESAMPLE of the second plane, which is bottom-up only at
siting 3; a poll of `wait` waits while DONE is 0. -/
theorem test_host_program :
    let p (a : Word) : HostPlane := { base := a, stride := -32 }
    let prog (st : Siting) := hostConvert .linear st .interlaced true .w32 0 0 32 4 (some .v)
      (p 0#32) 1#32 { base := 2#32, stride := 64 } (p 3#32) 4#32 (p 5#32)
    (prog .s2).length = 26 ∧
    (prog .s2).take 6 = [.wr 8#6 32#32, .wr 9#6 4#32, .wr 4#6 0#32, .wr 5#6 0xFFFFFFE0#32, .wr 6#6 1#32,
      .wr 7#6 0xFFFFFFE0#32] ∧
    ((prog .s2).drop 6).take 8 = [.wr 0#6 0x202#32, .wait, .wr 4#6 1#32, .wr 5#6 0xFFFFFFE0#32, .wr 6#6 2#32,
      .wr 7#6 64#32, .wr 0#6 0x391#32, .wait] ∧
    (prog .s2).drop 24 = [.wr 0#6 0x391#32, .wait] ∧ (prog .s3).drop 24 = [.wr 0#6 0x7D1#32, .wait] ∧
    hostSetShape 0#64 0x3FE0000000000000#64 =
      [.wr 12#6 0#32, .wr 13#6 0#32, .wr 14#6 0#32, .wr 15#6 0x3FE00000#32] ∧
    hostLoadCoef 0 [-24, 232] = [.wr 16#6 0xFFFFFFE8#32, .wr 17#6 232#32] ∧
    (match hostTurn [.wait] (busyAt 0x41#32 0 []) with | .next x => x.1 | _ => []) = [.wait] := by decide +kernel

/-- R86 and U6 for program P1: a host store to source row 1 while the command runs is done and noted, and the bytes
of any value at completion are those of the rows computed from it; one beside the planes is only done. -/
theorem test_race :
    let s : State := access (.store 0x1013#32 7#8) (busyAt 0x041#32 4 [])
    readByte s.mem 0x1013 = 7#8 ∧ s.raced = [0x1013#32] ∧ s.spoiled = [0x2023#32, 0x2033#32] ∧
    (access .sequencer s).free = 2 ∧ (access .sequencer s).statusWord = 2#32 ∧ (access .sequencer s).raced = [] ∧
    (access (.store 0x1040#32 7#8) (busyAt 0x041#32 4 [])).raced = [] := by decide +kernel

/-- R42 and R298: a RESAMPLE reads six registers, a Cubic one its coefficients too, a TAPGEN the shape; a register
counts as written from its first write on, and TAPGEN writes the coefficients. -/
theorem test_duties :
    idle.unwrittenReads 0x041#32 = [4, 5, 6, 7, 8, 9] ∧ idle.unwrittenReads 3#32 = [12, 13, 14, 15] ∧
    (access (.write 8#6 16#32) idle).unwrittenReads 0x021#32 = [4, 5, 6, 7, 9, 16, 17] ∧
    (access .sequencer (busyAt 3#32 0 [])).unwritten = [4, 5, 6, 7, 8, 9, 12, 13, 14, 15, 18, 19, 20, 21, 22, 23] ∧
    idle.dutiesKept 0x041#32 = false ∧ State.dutiesKept { idle with unwritten := [] } 0x041#32 = true ∧
    State.dutiesKept { idle with
      unwritten := [], limits := [{ base := 0x2000, size := 1, reach := .readOnly }] } 0x041#32 = false ∧
    State.dutiesKept { idle with unwritten := [] } 0x021#32 = true := by decide +kernel

/-- The breach for which the refusing model refuses an event. -/
def breach? (e : Event) (s : State) : Option Breach :=
  match contractStep { s with events := [e] } with
  | .error b => some b
  | .ok _ => none

/-- R298 in the refusing model: P9, P10, P11, P1, P7 and P8 broken, and P1 to P11 met. -/
theorem test_contract :
    let w : State := { idle with unwritten := [] }
    breach? (.write 0#6 0x041#32) { idle with unwritten := [9] } = some (.unwritten [9]) ∧
    breach? (.write 0#6 0x021#32) { idle with unwritten := [17, 18] } = some (.unwritten [17]) ∧
    breach? (.write 0#6 3#32) { idle with unwritten := [12] } = some (.unwritten [12]) ∧
    breach? (.write 0#6 0x041#32) { w with ops := { w.ops with width := 15#16 } } = some (.geometry .badWidth) ∧
    breach? (.write 0#6 0x041#32) { w with limits := [{ base := 0x103F, size := 1, reach := .writeOnly }] } =
      some .unmapped ∧
    breach? (.store 0x1000#32 1#8) (busyAt 0x041#32 0 []) = some .ownership ∧
    breach? (.load 0x2000#32) (busyAt 0x041#32 0 []) = some .ownership ∧
    breach? (.load 0x1000#32) (busyAt 0x041#32 0 []) = none ∧ breach? (.write 0#6 0x041#32) w = none ∧
    breach? (.write 0#6 0#32) idle = none := by decide +kernel

/-- V-T4 in the refusing model: c = 100 is defined, c = 1000 is refused; V-T5: an infinite b is rejected, not refused,
unless a shape register is unwritten too (log entry 23). -/
theorem test_contract_taps :
    let s (bHi cHi : Word) : State :=
      { idle with unwritten := [], shape := { idle.shape with fbHi := bHi, fcHi := cHi } }
    breach? (.write 0#6 0x003#32) (s 0#32 0x40590000#32) = none ∧
    breach? (.write 0#6 0x043#32) (s 0#32 0x408F4000#32) = some .tapOverflow ∧
    breach? (.write 0#6 0x043#32) (s 0x7FF00000#32 0#32) = none ∧
    breach? (.write 0#6 0x043#32) { s 0x7FF00000#32 0#32 with unwritten := [14] } = some (.unwritten [14]) := by
  decide +kernel

/-! ### Witnesses: every obligation with hypotheses has a concrete state that meets them -/

/-- `decode c = .ok i` has an instance, and so has the other side. -/
theorem test_witness_decodeInvertsEncode :
    decode (.lop 0b11111_1011#9) = .ok (.sra32 31) ∧ (Instr.sra32 31).wellFormed = true ∧
    encode (.sra32 31) = .lop 0b11111_1011#9 := by decide

theorem test_witness_legalWordsCounted : 2 ^ 11 ≤ (0x800#32 : Word).toNat ∧ (15 : Nat) < 16 := by decide

/-- One queue and one idle block for each of the eight outcomes of a CMD write (boundary words). -/
theorem test_witness_commandWriteOutcome :
    let s (w : Word) : State := { idle with events := [.write 0#6 w] }
    (s 4#32).events = .write 0#6 4#32 :: [] ∧ (s 4#32).status.busy = false ∧
    (access (.write 0#6 4#32) idle).status.cause = 1#4 ∧ (access (.write 0#6 0x800#32) idle).status.cause = 2#4 ∧
    (access (.write 0#6 0x400#32) idle).status.cause = 2#4 ∧ (access (.write 0#6 0x102#32) idle).status.cause = 2#4 ∧
    (access (.write 0#6 0x403#32) idle).status.cause = 2#4 ∧ (access (.write 0#6 0x7F1#32) idle).status.cause = 3#4 ∧
    (access (.write 0#6 3#32) { idle with shape := { idle.shape with fcHi := 0xFFFFFFFF#32 } }).status.cause = 4#4 ∧
    (access (.write 0#6 3#32) idle).last = 3#32 := by decide +kernel

theorem test_witness_stepRunsDecodedInstruction :
    (idle.status.busy = false ∧ decode (.cmd 0x41#32) = .ok (.resamplePointS1P .w16 .topDown)) ∧
    ((busyAt 0x41#32 0 []).status.busy = true ∧
      decode (.cmd (busyAt 0x41#32 0 []).last) = .ok (.resamplePointS1P .w16 .topDown)) ∧
    (busyAt 0x41#32 0 []).events = [] ∧ decode (.lop 2#9) = .ok .avg2 := by decide +kernel

theorem test_witness_busyCommandWriteOverruns :
    let s : State := { busyAt 0x41#32 0 [] with events := [.write 4#6 7#32] }
    s.status.busy = true ∧ 3 ≤ (3#6 : BitVec 6).toNat ∧ 3 ≤ (4#6 : BitVec 6).toNat ∧ s.events = .write 4#6 7#32 :: [] := by decide +kernel

theorem test_witness_rejectedWordRaisesCfgErr :
    let s (w : Word) : State := { idle with events := [.write 0#6 w] }
    ((s 4#32).status.busy = false ∧ decode (.cmd 4#32) = .error .rsvdOp) ∧
    ((s 0x10#32).status.busy = false ∧ decode (.cmd 0x10#32) = .error .mbz) ∧
    ((s 0x31#32).status.busy = false ∧ decode (.cmd 0x31#32) = .error .rsvdItype) ∧
    (decode (.cmd 0x1C3#32) = .ok (tapgenInstr .s3 .interlaced) ∧
      (0xFFF80000#32 : Word).toNat / 2 ^ 20 % 2 ^ 11 = 0x7FF) := by decide +kernel

theorem test_witness_cfgErrAcknowledgedByHost :
    let s : State := { idle with status := { idle.status with cfgerr := true, cause := 3#4 } }
    s.status.busy = false ∧ s.status.cfgerr = true ∧ (4#32 : Word).getLsbD 2 = true ∧
    decode (.cmd 4#32) = .error .rsvdOp ∧
    decode (.cmd 0x41#32) = .ok (resampleInstr .point .s1 .progressive .w16 .topDown) ∧
    decode (.cmd 2#32) = .ok (.hshift .w16 .topDown) ∧ (busyAt 2#32 0 []).status.busy = true := by decide +kernel

/-- A write to each kind of register, at the ends of each range. -/
theorem test_witness_dataRegisterWriteThenRead :
    let v := 0x8001FFFF#32
    let t (n : BitVec 6) := (access (.write n v) idle).readReg n
    idle.status.busy = false ∧ t 4#6 = v ∧ t 7#6 = v ∧ t 8#6 = 0xFFFF#32 ∧ t 9#6 = 0xFFFF#32 ∧ t 12#6 = v ∧
    t 15#6 = v ∧ t 16#6 = 0xFFFFFFFF#32 ∧ t 23#6 = 0xFFFFFFFF#32 ∧ t 24#6 = 0#32 ∧ t 63#6 = 0#32 := by
  decide +kernel

theorem test_witness_busyRegisterAccesses :
    let flags : State := { idle with status := { idle.status with done := true, cfgerr := true, ovr := true } }
    (busyAt 0x41#32 0 []).status.busy = true ∧
    (access (.write 9#6 8#32) (busyAt 0x41#32 0 [])).readReg 9#6 = 4#32 ∧
    (access (.write 12#6 8#32) (busyAt 0x41#32 0 [])).readReg 12#6 = 0#32 ∧
    (access (.write 23#6 8#32) (busyAt 0x41#32 0 [])).readReg 23#6 = 0#32 ∧
    (access (.write 2#6 1#32) (busyAt 0x41#32 0 [])).ie = true ∧ (access (.write 2#6 3#32) idle).ie = true ∧
    (access (.write 1#6 2#32) flags).statusWord = 0xC#32 ∧ (access (.write 1#6 4#32) flags).statusWord = 0xA#32 ∧
    (access (.read 9#6) idle).hostData = 4#32 ∧
    (access (.read 3#6) (busyAt 0x41#32 0 [])).hostData = 0x43520107#32 := by decide +kernel

theorem test_witness_interruptLineFollowsFlags :
    let s : State := { idle with ie := true, status := { idle.status with done := true, cfgerr := true } }
    s.irq = true ∧ (access (.write 1#6 6#32) s).irq = false ∧ (access (.write 2#6 0#32) s).irq = false ∧
    (access .reset s).irq = false ∧ s.status.busy = false ∧ (6#32 : Word).getLsbD 1 = true ∧
    (6#32 : Word).getLsbD 2 = true ∧ s.shape.fbHi.toNat / 2 ^ 20 % 2 ^ 11 ≠ 0x7FF := by decide +kernel

theorem test_witness_resetAbandonsCommand :
    let s : State := { busyAt 0x41#32 1 [] with
      events := [.reset], pending := [{ addr := 0x2000#32, data := [1] }] }
    s.events = .reset :: [] ∧ (∀ st ∈ s.pending, st.covers 0x2001 = false) := by decide +kernel

/-- Every kernel, at its first and last group. -/
theorem test_witness_statusWordShowsFlags :
    (∀ it ∈ [IType.point, .linear, .cubic], ∀ st ∈ [Siting.s0, .s1, .s2, .s3],
      (busyAt (resampleWord it st .progressive .w16 .topDown) 3 []).status.busy = true ∧
      (busyAt (resampleWord it st .progressive .w16 .topDown) 3 []).pos.group.toNat < 4 ∧
      (busyAt (resampleWord it st .interlaced .w16 .topDown) 1 []).pos.group.toNat < 4 / 2) ∧
    (busyAt 0x091#32 0 []).statusWord = 0x11#32 ∧ (busyAt 0x091#32 3 []).statusWord = 0x21#32 ∧
    (busyAt 0x161#32 1 []).statusWord = 0x31#32 ∧ (busyAt 2#32 0 []).last = hshiftWord .w16 .topDown ∧
    (busyAt 2#32 0 []).statusWord = 1#32 ∧ (busyAt 0x43#32 0 []).last = tapgenWord .s1 .progressive ∧
    (busyAt 0x43#32 0 []).statusWord = 1#32 := by decide +kernel

/-- An idle block, a RESAMPLE and an HSHIFT in progress at the ends of their planes, a byte that is not mapped, and
one the block may only load from. -/
theorem test_witness_hostMemoryAccesses :
    let s : State := { busyAt 0x41#32 0 [] with
      limits := [{ base := 0x4000, size := 1, reach := .unmapped }, { base := 0x5000, size := 1, reach := .readOnly }] }
    idle.status.busy = false ∧ Memory.wf idle.mem = true ∧ mappedByte idle.limits 0x1000#32 = true ∧
    s.status.busy = true ∧ s.last = resampleWord .point .s1 .progressive .w16 .topDown ∧
    s.srcView.holds 0x103F = true ∧ s.srcView.holds 0x1040 = false ∧ (s.dstView 8).holds 0x207F = true ∧
    (s.dstView 8).holds 0x2080 = false ∧ mappedByte s.limits 0x4000#32 = false ∧
    mappedByte s.limits 0x5000#32 = true ∧ (busyAt 2#32 0 []).last = hshiftWord .w16 .topDown ∧
    ((busyAt 2#32 0 []).dstView 4).holds 0x203F = true ∧ ((busyAt 2#32 0 []).dstView 4).holds 0x2040 = false ∧
    (busyAt 0x143#32 0 []).last = tapgenWord .s1 .interlaced := by decide +kernel

theorem test_witness_pendingStorePerformedAlone :
    let s : State := { busyAt 0x41#32 1 [] with
      events := [.perform 0], pending := [{ addr := 0x2000#32, data := [1, 2] }] }
    s.events = .perform 0 :: [] ∧ s.pending[0]? = some { addr := 0x2000#32, data := [1, 2] } ∧
    s.admits .store 0x2000#32 2 = true ∧ Memory.wf s.mem = true ∧ [1#8, 2#8].length ≤ 2 ^ 32 := by decide +kernel

theorem test_witness_storeOrderDoesNotMatter :
    let x : LaneStore := { addr := 0x2000#32, data := [1] }
    let y : LaneStore := { addr := 0x2001#32, data := [2] }
    Memory.wf [(7, 7#8)] = true ∧ [x, y].Pairwise LaneStore.apart ∧ [x, y].Perm [y, x] := by
  refine ⟨by decide, ?_, List.Perm.swap _ _ _⟩
  simp only [List.pairwise_cons, List.mem_singleton, forall_eq, List.not_mem_nil, false_implies, implies_true,
    List.Pairwise.nil, and_true]
  rintro a ⟨h1, h2⟩
  have e1 : 0x2000 = a := by simpa [LaneStore.covers] using h1
  have e2 : 0x2001 = a := by simpa [LaneStore.covers] using h2
  omega

theorem test_witness_planeCommandAccepted :
    idle.status.busy = false ∧
    encode (resampleInstr .cubic .s3 .interlaced .w32 .bottomUp) = .cmd 0x7E1#32 ∧
    encode (.hshift .w32 .bottomUp) = .cmd 0x602#32 := by decide +kernel

theorem test_witness_nopCompletes : idle.status.busy = false ∧ idle.pending = [] := by decide +kernel

theorem test_witness_tapgenAcceptedOrRejected :
    idle.status.busy = false ∧ encode (tapgenInstr .s1 .interlaced) = .cmd 0x143#32 ∧
    idle.shape.fbHi.toNat / 2 ^ 20 % 2 ^ 11 ≠ 0x7FF ∧ idle.shape.fcHi.toNat / 2 ^ 20 % 2 ^ 11 ≠ 0x7FF ∧
    (0x7FF00000#32 : Word).toNat / 2 ^ 20 % 2 ^ 11 = 0x7FF := by decide +kernel

/-- V-T4: b = 0, c = 100 fits and c = 1000 does not; the first is the witness of TapgenWritesTaps. -/
theorem test_witness_tapgenWritesTaps :
    (busyAt 3#32 0 []).status.busy = true ∧ (busyAt 3#32 0 []).pending = [] ∧
    tapSet .s0 .progressive 0#64 0x4059000000000000#64 = [13312, -12800] := by decide +kernel

theorem test_witness_tapgenOverflowLeavesFreeValues :
    let s : State := { busyAt 0x43#32 0 [] with shape := { idle.shape with fcHi := 0x408F4000#32 } }
    s.status.busy = true ∧ s.pending = [] ∧
    ∃ x ∈ tapSet .s1 .progressive (s.shape.fbHi ++ s.shape.fbLo) (s.shape.fcHi ++ s.shape.fcLo),
      x < -32768 ∨ 32767 < x := by decide +kernel

theorem test_witness_tapgenTypicalRange :
    0 ≤ patternValue 0x3FF0000000000000#64 ∧ patternValue 0x3FF0000000000000#64 ≤ 1 ∧
    0 ≤ patternValue 0#64 ∧ patternValue 0#64 ≤ 1 := by decide +kernel

/-- The progressive kernels' steps, at the first and the last group. -/
theorem test_witness_progressive_steps :
    ∀ w ∈ [0x041, 0x051, 0x091, 0x021, 0x061], ∀ g ∈ [0, 3],
      (busyAt (BitVec.ofNat 32 w) g []).ready .w16 .topDown (2 * (busyAt (BitVec.ofNat 32 w) g []).height) = true ∧
      (busyAt (BitVec.ofNat 32 w) g []).pos.group.toNat < (busyAt (BitVec.ofNat 32 w) g []).height := by decide +kernel

/-- The interlaced kernels' steps, at the first and the last group. -/
theorem test_witness_interlaced_steps :
    ∀ w ∈ [0x541, 0x551, 0x511, 0x591, 0x521, 0x561], ∀ g ∈ [0, 1],
      (busyAt (BitVec.ofNat 32 w) g []).ready .w16 .bottomUp (2 * (busyAt (BitVec.ofNat 32 w) g []).height) = true ∧
      (busyAt (BitVec.ofNat 32 w) g []).pos.group.toNat < (busyAt (BitVec.ofNat 32 w) g []).height / 2 := by decide +kernel

theorem test_witness_hshiftStepFilters :
    (busyAt 0x002#32 3 []).ready .w16 .topDown (busyAt 0x002#32 3 []).height = true ∧
    (busyAt 0x002#32 3 []).pos.group.toNat < (busyAt 0x002#32 3 []).height := by decide +kernel

theorem test_witness_planeCommandCompletes :
    let s (w : Word) (g : Nat) : State := { busyAt w g [] with pending := [{ addr := 0x2000#32, data := [1] }] }
    (s 0x41#32 4).status.busy = true ∧
    brokenPrecondition 16 (s 0x41#32 4).srcView ((s 0x41#32 4).dstView 8) = none ∧
    4 ≤ (s 0x41#32 4).pos.group.toNat ∧ 4 / 2 ≤ (s 0x141#32 2).pos.group.toNat ∧
    (∀ x ∈ (s 0x41#32 4).pending, (s 0x41#32 4).admits .store x.addr x.data.length = true) ∧
    Memory.wf (s 0x41#32 4).mem = true ∧ brokenPrecondition 16 (s 2#32 4).srcView ((s 2#32 4).dstView 4) = none := by
  decide +kernel

/-- A block whose platform does not map row 1 of the source, and maps the byte at 0x2000 for loads only (R79 d). -/
theorem test_witness_unadmittedAccessWaits :
    let s (w : Word) (g : Nat) : State :=
      { busyAt w g [] with
        limits := [{ base := 0x1010, size := 16, reach := .unmapped }, { base := 0x2000, size := 1, reach := .readOnly }]
        pending := [{ addr := 0x2000#32, data := [1] }] }
    (s 0x41#32 1).admits .load ((s 0x41#32 1).srcView.laneAddr 16 1 0) 16 = false ∧
    1 ∈ Kernel.ptP.sources 4 1 ∧ (s 0x41#32 4).admits .store 0x2000#32 1 = false ∧
    (s 0x41#32 4).admits .load 0x2000#32 1 = true ∧
    next? (exec (.resamplePointS1P .w16 .topDown) (s 0x41#32 1)) = some (s 0x41#32 1) ∧
    next? (exec (.resamplePointS1P .w16 .topDown) (s 0x41#32 4)) = some (s 0x41#32 4) ∧
    next? (exec (.hshift .w16 .topDown) (s 2#32 1)) = some (s 2#32 1) := by decide +kernel

/-- One broken geometry for each of P1 to P6, and the one that breaks none. -/
theorem test_witness_brokenPreconditionRefused :
    let s (f : Operands → Operands) : State := { busyAt 0x41#32 0 [] with ops := f idle.ops }
    let r (f : Operands → Operands) := refusal? (exec (.resamplePointS1P .w16 .topDown) (s f))
    r (fun o => { o with width := 15#16 }) = some .badWidth ∧
    r (fun o => { o with height := 6#16 }) = some .badHeight ∧
    r (fun o => { o with srcBase := 0x1008#32 }) = some .misalignedPlane ∧
    r (fun o => { o with srcStride := 0#32 }) = some .shortStride ∧
    r (fun o => { o with dstBase := 0xFFFFFF90#32 }) = some .regionWraps ∧
    r (fun o => { o with dstBase := 0x1030#32 }) = some .planesOverlap ∧
    r (fun o => { o with dstBase := 0x1040#32 }) = none ∧ r (fun o => { o with dstBase := 0xFFFFFF80#32 }) = none := by
  decide +kernel

theorem test_witness_instructionFrame :
    (next? (exec (.resamplePointS1P .w16 .topDown) (busyAt 0x41#32 0 []))).isSome = true ∧
    (next? (exec .avg2 idle)).isSome = true ∧ (next? (exec .tapgenS0P idle)).isSome = true := by decide +kernel

/-- A busy block in the middle of its command meets the invariant, and steps. -/
theorem test_witness_stepKeepsInvariant :
    (busyAt 0x41#32 3 []).Inv ∧ (busyAt 0x41#32 3 []).pendingInDestination ∧
    (next? (step (busyAt 0x41#32 3 []))).isSome = true := by
  refine ⟨⟨by decide +kernel, fun h => absurd h (by decide +kernel), rfl,
    fun _ => ⟨by decide +kernel, .inl (by decide +kernel)⟩, by decide +kernel, fun w h => ?_⟩, fun st h => ?_,
    by decide +kernel⟩
  · exact absurd h List.not_mem_nil
  · exact absurd h List.not_mem_nil

/-- LDL and STL: an aligned address the port admits, one it does not, and a misaligned one. -/
theorem test_witness_laneLoadAndStore :
    let s (a : Word) : State :=
      { idle with
        limits := [{ base := 0x3000, size := 16, reach := .writeOnly }], lane := { idle.lane with addr := a } }
    (s 0x1000#32).lane.addr.toNat % (s 0x1000#32).laneL = 0 ∧ (s 0x1000#32).admits .load 0x1000#32 16 = true ∧
    (s 0x3000#32).admits .load 0x3000#32 16 = false ∧ (s 0x3000#32).admits .store 0x3000#32 16 = true ∧ (s 0x1001#32).lane.addr.toNat % 16 ≠ 0 := by decide +kernel

theorem test_witness_blendFormula :
    (0 < 171 ∧ 0 < 85 ∧ 171 + 85 = 2 ^ 8) ∧ (0 < 7 ∧ 0 < 1 ∧ 7 + 1 = 2 ^ 3) ∧
    (List.replicate 16 255#8).length = 16 := by decide

theorem test_witness_macFormulas : (List.replicate 32 255#8).length = 32 := by decide

/-- K_CUB_8_I with the set `CR8e`, whose two halves each sum to 1024. -/
theorem test_witness_constantPlanesStayConstant :
    let C := coefsOf [-7, 93, 987, -49, -75, 745, 399, -45]
    C.c0.toInt + C.c1.toInt + C.c2.toInt + C.c3.toInt = 1024 ∧
    C.c4.toInt + C.c5.toInt + C.c6.toInt + C.c7.toInt = 1024 ∧ 2 * ((coefsOf [576, -64]).c0.toInt +
      (coefsOf [576, -64]).c1.toInt) = 1024 ∧ Kernel.cub8I.scan = .interlaced := by decide

theorem test_witness_everyDestinationRowOnce : 8 % 4 = 0 ∧ Kernel.cubSymP.scan = .progressive := by decide

theorem test_witness_sourceRowsInBounds :
    Kernel.cubQP.sources 4 3 = [1, 2, 3, 3, 3] ∧ ∀ r ∈ Kernel.cubQP.sources 4 3, r < 4 := by decide

theorem test_witness_mirrorReversesRows :
    3 < idle.srcView.rows ∧ idle.srcView.inSpace = true ∧ 0 < idle.srcView.width := by decide +kernel

/-- The start of program P1, and of an HSHIFT on the same planes. -/
theorem test_witness_wholePlanes :
    (busyAt (resampleWord .point .s1 .progressive .w16 .topDown) 0 []).Started
      (resampleWord .point .s1 .progressive .w16 .topDown) (laneBytes .w16) 8 ∧
    (busyAt (hshiftWord .w16 .bottomUp) 0 []).Started (hshiftWord .w16 .bottomUp) (laneBytes .w16) 4 := by
  refine ⟨⟨rfl, rfl, rfl, by decide, rfl, by decide +kernel, by decide +kernel, rfl, fun _ _ => rfl,
    fun _ _ => rfl⟩, ⟨rfl, rfl, rfl, by decide, rfl, by decide +kernel, by decide +kernel, rfl, fun _ _ => rfl,
    fun _ _ => rfl⟩⟩

end Sys2Proof.Tests
end

/-!
PROOFS, family 10_state: what one step makes of a host access to a register, and the statement on R40.
-/

namespace Sys2Proof.Machine

/-! ### Register accesses at the head of the queue, one rule per access -/

theorem step_of_fetch_answer {s : State} {o : Host.Outcome State Fault Refusal} (h : s.fetch = .answer o) :
    step s = o := by
  rw [step, h]

/-- A busy block drops the word written to CMD and records the overrun (R40, R300). -/
theorem step_write_cmd_busy {s : State} {rest : List Event} {w : Word} (h : s.events = .write 0#6 w :: rest)
    (hb : s.status.busy = true) : step s = .next (State.overrun { s with events := rest }) :=
  step_of_fetch_answer (by simp [State.fetch, State.writeCommand, h, hb])

/-- A write to any register but CMD is `State.writeReg`, whatever BUSY is (R20, R40). -/
theorem step_write_reg {s : State} {rest : List Event} {n : BitVec 6} {v : Word} (h : s.events = .write n v :: rest)
    (hn : n ≠ 0#6) : step s = .next (State.writeReg { s with events := rest } n v) :=
  step_of_fetch_answer (by simp [State.fetch, h, hn])

/-- A read touches only the place that keeps the value returned (R40; log entry 19). -/
theorem step_read {s : State} {rest : List Event} {n : BitVec 6} (h : s.events = .read n :: rest) :
    step s = .next { s with events := rest, hostData := State.readReg { s with events := rest } n } :=
  step_of_fetch_answer (by simp [State.fetch, h])

/-! ### `State.writeReg` at the two registers that take a write at any time (R28, R29) -/

theorem State.writeReg_at_status (s : State) (v : Word) : s.writeReg 1#6 v = s.writeStatus v :=
  if_pos rfl

theorem State.writeReg_at_ctrl (s : State) (v : Word) : s.writeReg 2#6 v = { s with ie := v.getLsbD 0 } := by
  simp [State.writeReg]

/-! ### R40 -/

/-- A busy block ignores a write to every index from 3 up: operands, shape and coefficients among them (R40). -/
theorem step_write_data_busy {s : State} {rest : List Event} {n : BitVec 6} {v : Word}
    (h : s.events = .write n v :: rest) (hn : 3 ≤ n.toNat) (hb : s.status.busy = true) :
    step s = .next { s with events := rest } := by
  have h0 : n ≠ 0#6 := by bv_omega
  have h1 : n ≠ 1#6 := by bv_omega
  have h2 : n ≠ 2#6 := by bv_omega
  rw [step_write_reg h h0, State.writeReg_busy { s with events := rest } n v h1 h2 hb]

/-- Settles O10, by the rule of each access: CMD and data registers while BUSY is 1, CTRL, STATUS and reads always. -/
theorem busyRegisterAccesses : Obligations.BusyRegisterAccesses := by
  unfold Obligations.BusyRegisterAccesses
  refine ⟨fun s rest v hb => ⟨fun h => ?cmd, fun n hn h => ?data⟩, fun s rest v h => ?ctrl,
    fun s rest v h => ?status, fun s rest n h => ?read⟩
  case cmd => exact step_write_cmd_busy h hb
  case data => exact step_write_data_busy h (by omega) hb
  case ctrl => rw [step_write_reg h (by decide), State.writeReg_at_ctrl]
  case status => rw [step_write_reg h (by decide), State.writeReg_at_status, State.writeStatus]
  case read => exact step_read h

end Sys2Proof.Machine

/-!
PROOFS, family 30_encoding: the fields of a command word as numbers, what the decoder can answer, what an idle block
does with the answer, and the statement on R108.
-/

namespace Sys2Proof

/-! ### The fields of a command word as numbers (R100) -/

theorem extractLsb'_toNat_eq_div_mod {m : Nat} (w : BitVec m) (a n : Nat) :
    (w.extractLsb' a n).toNat = w.toNat / 2 ^ a % 2 ^ n := by
  rw [BitVec.extractLsb'_toNat, Nat.shiftRight_eq_div_pow]

theorem extractLsb'_eq_ofNat_iff {m : Nat} (w : BitVec m) (a n k : Nat) :
    w.extractLsb' a n = BitVec.ofNat n k ↔ w.toNat / 2 ^ a % 2 ^ n = k % 2 ^ n := by
  rw [← BitVec.toNat_inj, extractLsb'_toNat_eq_div_mod, BitVec.toNat_ofNat]

/-- Bits 31 to 11 are all there is above BU, so reducing them to 21 bits loses nothing (R107). -/
theorem word_div_2048_mod (w : Word) : w.toNat / 2048 % 2097152 = w.toNat / 2048 :=
  Nat.mod_eq_of_lt (by omega)

/-! ### The checks of R108 on numbers -/

/-- The instruction that the fields of a word name when no check rejects it (R110). -/
def instrOfFields (w : Word) : Instr :=
  if w.toNat % 16 = 0 then .nop
  else if w.toNat % 16 = 1 then
    resampleInstr (itypeOf (w.extractLsb' 4 2)) (sitingOf (w.extractLsb' 6 2)) (scanOf (w.extractLsb' 8 1))
      (laneWidthOf (w.extractLsb' 9 1)) (rowOrderOf (w.extractLsb' 10 1))
  else if w.toNat % 16 = 2 then .hshift (laneWidthOf (w.extractLsb' 9 1)) (rowOrderOf (w.extractLsb' 10 1))
  else tapgenInstr (sitingOf (w.extractLsb' 6 2)) (scanOf (w.extractLsb' 8 1))

theorem instrOfFields_tapgen {w : Word} (h : w.toNat % 16 = 3) :
    instrOfFields w = tapgenInstr (sitingOf (w.extractLsb' 6 2)) (scanOf (w.extractLsb' 8 1)) := by
  simp [instrOfFields, h]

/-- The decoder makes the checks of R108 in the order written there. -/
theorem decode_cmd_eq_checks (w : Word) :
    decode (.cmd w) =
      if 4 ≤ w.toNat % 16 then .error .rsvdOp
      else if w.toNat / 2048 ≠ 0 then .error .mbz
      else if w.toNat % 16 = 0 ∧ w.toNat / 16 % 128 ≠ 0 then .error .mbz
      else if w.toNat % 16 = 2 ∧ (w.toNat / 16 % 4 ≠ 0 ∨ w.toNat / 64 % 4 ≠ 0 ∨ w.toNat / 256 % 2 ≠ 0) then .error .mbz
      else if w.toNat % 16 = 3 ∧ (w.toNat / 16 % 4 ≠ 0 ∨ w.toNat / 512 % 2 ≠ 0 ∨ w.toNat / 1024 % 2 ≠ 0) then .error .mbz
      else if w.toNat % 16 = 1 ∧ w.toNat / 16 % 4 = 3 then .error .rsvdItype
      else .ok (instrOfFields w) := by
  simp only [decode, decodeCommand, instrOfFields, ne_eq, extractLsb'_toNat_eq_div_mod, extractLsb'_eq_ofNat_iff,
    Nat.reducePow, Nat.reduceMod, Nat.div_one, word_div_2048_mod, apply_ite Except.ok]

/-! ### An accepted word is the encoding of its instruction (R110) -/

theorem itypeOf_code {v : BitVec 2} (h : v ≠ 3#2) : (itypeOf v).code = v.toNat := by
  revert v; decide

theorem sitingOf_code (v : BitVec 2) : (sitingOf v).code = v.toNat := by
  revert v; decide

theorem scanOf_code (v : BitVec 1) : (scanOf v).code = v.toNat := by
  revert v; decide

theorem laneWidthOf_code (v : BitVec 1) : (laneWidthOf v).code = v.toNat := by
  revert v; decide

theorem rowOrderOf_code (v : BitVec 1) : (rowOrderOf v).code = v.toNat := by
  revert v; decide

/-- A word with nothing above BU is put together from its fields again (R100). -/
theorem commandWord_of_fields {w : Word} (h : w.toNat / 2048 = 0) :
    commandWord (w.toNat % 16) (w.extractLsb' 4 2).toNat (w.extractLsb' 6 2).toNat (w.extractLsb' 8 1).toNat
      (w.extractLsb' 9 1).toNat (w.extractLsb' 10 1).toNat = w := by
  apply BitVec.eq_of_toNat_eq
  simp only [commandWord, extractLsb'_toNat_eq_div_mod, BitVec.toNat_ofNat, Nat.reducePow]
  omega

/-- What the decoder accepts: the words of the four commands, each as its instruction. -/
theorem decode_cmd_ok_cases {w : Word} {i : Instr} (h : decode (.cmd w) = .ok i) :
    (w = commandWord 0 0 0 0 0 0 ∧ i = .nop) ∨
    (∃ it st sc lw ro, w = resampleWord it st sc lw ro ∧ i = resampleInstr it st sc lw ro) ∨
    (∃ lw ro, w = hshiftWord lw ro ∧ i = .hshift lw ro) ∨
    (∃ st sc, w = tapgenWord st sc ∧ i = tapgenInstr st sc) := by
  rw [decode_cmd_eq_checks] at h
  split_ifs at h with hop hmbz hnop hhshift htapgen hitype
  obtain rfl : instrOfFields w = i := by injection h
  have hw := commandWord_of_fields (not_not.mp hmbz)
  unfold instrOfFields
  split_ifs with h0 h1 h2
  · have hzero : w.toNat = 0 := by omega
    exact .inl ⟨BitVec.eq_of_toNat_eq hzero, rfl⟩
  · have hit : w.extractLsb' 4 2 ≠ 3#2 := fun h3 => hitype ⟨h1, (extractLsb'_eq_ofNat_iff w 4 2 3).mp h3⟩
    refine .inr (.inl ⟨_, _, _, _, _, ?_, rfl⟩)
    rw [h1] at hw
    rw [resampleWord, itypeOf_code hit, sitingOf_code, scanOf_code, laneWidthOf_code, rowOrderOf_code]
    exact hw.symm
  · have hzero : (w.extractLsb' 4 2).toNat = 0 ∧ (w.extractLsb' 6 2).toNat = 0 ∧ (w.extractLsb' 8 1).toNat = 0 := by
      simp only [extractLsb'_toNat_eq_div_mod, Nat.reducePow]; omega
    obtain ⟨hit, hst, hil⟩ := hzero
    rw [h2, hit, hst, hil] at hw
    refine .inr (.inr (.inl ⟨_, _, ?_, rfl⟩))
    rw [hshiftWord, laneWidthOf_code, rowOrderOf_code]
    exact hw.symm
  · have h3 : w.toNat % 16 = 3 := by omega
    have hzero : (w.extractLsb' 4 2).toNat = 0 ∧ (w.extractLsb' 9 1).toNat = 0 ∧ (w.extractLsb' 10 1).toNat = 0 := by
      simp only [extractLsb'_toNat_eq_div_mod, Nat.reducePow]; omega
    obtain ⟨hit, hlw, hbu⟩ := hzero
    rw [h3, hit, hlw, hbu] at hw
    refine .inr (.inr (.inr ⟨_, _, ?_, rfl⟩))
    rw [tapgenWord, sitingOf_code, scanOf_code]
    exact hw.symm

end Sys2Proof

namespace Sys2Proof.Machine

/-! ### A word written to CMD of an idle block -/

theorem step_write_cmd_ok {s : State} {rest : List Event} {w : Word} {i : Instr}
    (h : s.events = .write 0#6 w :: rest) (hb : s.status.busy = false) (hd : decode (.cmd w) = .ok i) :
    step s = exec i { s with events := rest } := by
  simp [step, State.fetch, State.writeCommand, h, hb, hd]

/-- A word that does not decode raises CFGERR with the cause of its defect, and nothing else (R293). -/
theorem step_write_cmd_error {s : State} {rest : List Event} {w : Word} {r : Reject}
    (h : s.events = .write 0#6 w :: rest) (hb : s.status.busy = false) (hd : decode (.cmd w) = .error r) :
    step s = .next (State.raiseCfgErr { s with events := rest } (rejectCause r)) :=
  step_of_fetch_answer (by simp [State.fetch, State.writeCommand, h, hb, hd])

/-! ### What the command instructions do in an idle block -/

theorem exec_resampleInstr (it : IType) (st : Siting) (sc : Scan) (lw : LaneWidth) (ro : RowOrder) (s : State) :
    exec (resampleInstr it st sc lw ro) s = resample it st sc lw ro s := by
  cases it <;> cases st <;> cases sc <;> rfl

theorem exec_tapgenInstr (st : Siting) (sc : Scan) (s : State) : exec (tapgenInstr st sc) s = tapgen st sc s := by
  cases st <;> cases sc <;> rfl

/-- NOP is accepted and completes in the same step (R255). -/
theorem exec_nop_idle {s : State} (hb : s.status.busy = false) :
    exec .nop s = .next ((s.accept (commandWord 0 0 0 0 0 0)).complete []) := by
  simp [exec, execNop, hb]

theorem exec_resampleInstr_idle {s : State} (it : IType) (st : Siting) (sc : Scan) (lw : LaneWidth) (ro : RowOrder)
    (hb : s.status.busy = false) :
    exec (resampleInstr it st sc lw ro) s = .next (s.accept (resampleWord it st sc lw ro)) := by
  simp [exec_resampleInstr, resample, hb]

theorem exec_hshift_idle {s : State} (lw : LaneWidth) (ro : RowOrder) (hb : s.status.busy = false) :
    exec (.hshift lw ro) s = .next (s.accept (hshiftWord lw ro)) := by
  simp [exec, execHshift, hb]

theorem exec_tapgenInstr_finite {s : State} (st : Siting) (sc : Scan) (hb : s.status.busy = false)
    (hf : (finitePattern s.fb && finitePattern s.fc) = true) :
    exec (tapgenInstr st sc) s = .next (s.accept (tapgenWord st sc)) := by
  simp [exec_tapgenInstr, tapgen, hb, hf]

theorem exec_tapgenInstr_nonfinite {s : State} (st : Siting) (sc : Scan) (hb : s.status.busy = false)
    (hf : (finitePattern s.fb && finitePattern s.fc) = false) :
    exec (tapgenInstr st sc) s = .next (s.raiseCfgErr causeNonfinite) := by
  simp [exec_tapgenInstr, tapgen, hb, hf]

/-- The exponent of a pattern stands in its high word (R33, R130). -/
theorem finitePattern_append (hi lo : Word) :
    finitePattern (hi ++ lo) = decide (hi.toNat / 2 ^ 20 % 2 ^ 11 ≠ 0x7FF) := by
  rw [finitePattern, BitVec.extractLsb'_append_eq_of_le (by decide), decide_eq_decide]
  exact (extractLsb'_eq_ofNat_iff hi 20 11 0x7FF).not

/-- The defect that cause 4 reports, in the registers (R108, R291). -/
theorem finite_shape_eq_false_iff (s : State) :
    (finitePattern s.fb && finitePattern s.fc) = false ↔
      s.shape.fbHi.toNat / 2 ^ 20 % 2 ^ 11 = 0x7FF ∨ s.shape.fcHi.toNat / 2 ^ 20 % 2 ^ 11 = 0x7FF := by
  simp only [State.fb, State.fc, finitePattern_append, Bool.and_eq_false_iff, decide_eq_false_iff_not, not_not, ne_eq]

theorem tapgenWord_op (st : Siting) (sc : Scan) : (tapgenWord st sc).toNat % 16 = 3 := by
  cases st <;> cases sc <;> rfl

/-- Acceptance puts the word in LAST and leaves CFGERR and CAUSE alone (R30), for every command. -/
theorem exec_of_decode_idle {s : State} {w : Word} {i : Instr} (hd : decode (.cmd w) = .ok i)
    (hb : s.status.busy = false) (hf : w.toNat % 16 = 3 → (finitePattern s.fb && finitePattern s.fc) = true) :
    ∃ t, exec i s = .next t ∧ t.last = w ∧ t.status.cfgerr = s.status.cfgerr ∧ t.status.cause = s.status.cause := by
  obtain ⟨rfl, rfl⟩ | ⟨it, st, sc, lw, ro, rfl, rfl⟩ | ⟨lw, ro, rfl, rfl⟩ | ⟨st, sc, rfl, rfl⟩ := decode_cmd_ok_cases hd
  · exact ⟨_, exec_nop_idle hb, by simp⟩
  · exact ⟨_, exec_resampleInstr_idle it st sc lw ro hb, by simp⟩
  · exact ⟨_, exec_hshift_idle lw ro hb, by simp⟩
  · exact ⟨_, exec_tapgenInstr_finite st sc hb (hf (tapgenWord_op st sc)), by simp⟩

/-! ### R108 -/

/-- A check that decides both a value and what is claimed: the claim holds when it holds on either side. -/
theorem if_of_checked {α : Type} {c P Q : Prop} [Decidable c] {x a b : α} (hx : x = if c then a else b)
    (hpos : x = a → P) (hneg : ¬ c → x = b → Q) : if c then P else Q := by
  split_ifs at hx ⊢ with h
  · exact hpos hx
  · exact hneg h hx

/-- Settles O4: the first six checks are the decoder's and the seventh, cause 4, is TAPGEN's own; past them the word is
accepted. -/
theorem commandWriteOutcome : Obligations.CommandWriteOutcome := by
  unfold Obligations.CommandWriteOutcome
  intro s w rest hev hb
  have hd := decode_cmd_eq_checks w
  have reject {r : Reject} := step_write_cmd_error (r := r) hev hb
  refine if_of_checked hd reject fun hop hd => ?_
  refine if_of_checked hd reject fun hmbz hd => ?_
  refine if_of_checked hd reject fun hnop hd => ?_
  refine if_of_checked hd reject fun hhshift hd => ?_
  refine if_of_checked hd reject fun htapgen hd => ?_
  refine if_of_checked hd reject fun hitype hd => ?_
  split
  next hshape =>
    obtain ⟨h3, hinf⟩ := hshape
    rw [instrOfFields_tapgen h3] at hd
    rw [step_write_cmd_ok hev hb hd]
    exact exec_tapgenInstr_nonfinite _ _ hb ((finite_shape_eq_false_iff _).mpr hinf)
  next hshape =>
    have hfinite (h3 : w.toNat % 16 = 3) : (finitePattern s.fb && finitePattern s.fc) = true :=
      Bool.of_not_eq_false fun hf => hshape ⟨h3, (finite_shape_eq_false_iff s).mp hf⟩
    refine ⟨?decoded, ?accepted⟩
    case accepted =>
      rw [step_write_cmd_ok hev hb hd]
      exact exec_of_decode_idle (s := { s with events := rest }) hd hb hfinite
    case decoded =>
      simpa only [instrOfFields, itypeOf, sitingOf, scanOf, laneWidthOf, rowOrderOf, extractLsb'_eq_ofNat_iff,
        Nat.reducePow, Nat.reduceMod] using hd

end Sys2Proof.Machine

/-!
PROOFS, family 41_lane_arithmetic: what the unit's operations give on interleaved pairs and on numbers that fit their
elements, the composites put together from halves and groups, and the statement on R167.
-/

namespace Sys2Proof.Machine

/-! ### One interleaved group: element by element on the two lanes it pairs (R156, R160, R164, R166) -/

/-- MADD of interleaved samples with a broadcast pair of coefficients is MADD's element on each pair of samples. -/
theorem madd_interleave_bcast {p : HalfLane} {l : Nat} (hp : p.length = l / 4) (q : HalfLane) (k0 k1 : Half) :
    madd (interleave p q) (bcast l k0 k1) = List.zipWith (fun x y => maddElem x y k0 k1) p q := by
  rw [bcast, ← hp]
  clear hp
  induction p generalizing q with
  | nil => simp [interleave, madd]
  | cons x p ih =>
    cases q with
    | nil => simp [interleave, madd]
    | cons y q => simp [interleave, madd, List.replicate_succ, ih q]

/-- A broadcast pair reread as words is one word repeated (R166). -/
theorem rereadWords_bcast (l : Nat) (p0 p1 : Half) :
    rereadWords (bcast l p0 p1) = List.replicate (l / 4) (p1 ++ p0) := by
  rw [bcast]
  induction l / 4 with
  | zero => rfl
  | succ n ih => simp [rereadWords, List.replicate_succ, ih]

/-- ADD32 with a constant word lane adds the constant to every element. -/
theorem add32_replicate {u : WordLane} {n : Nat} (h : u.length = n) (c : Word) :
    add32 u (List.replicate n c) = u.map (· + c) := by
  rw [← h, ← List.map_const', add32, List.zipWith_map_right, List.zipWith_self]

/-! ### Two halves and two groups put together again (R154 to R157, R162, R163) -/

/-- The two groups of a half, computed element by element on the two parts of its lanes, pack to the whole half. -/
theorem packs32_zipWith_groups (e : Half → Half → Word) {p q : HalfLane} (h : q.length = p.length) :
    packs32 (List.zipWith e (p.take (p.length / 2)) (q.take (q.length / 2)))
        (List.zipWith e (p.drop (p.length / 2)) (q.drop (q.length / 2))) =
      List.zipWith (fun x y => sat16 (e x y)) p q := by
  rw [packs32, ← List.map_append, ← List.zipWith_append (by simp [h]), List.take_append_drop, List.take_append_drop,
    List.map_zipWith]

/-- The two halves, computed element by element on the widened parts of two lanes, pack to the whole lane. -/
theorem packus16_zipWith_halves (e : Half → Half → Half) {a b : ByteLane} (h : b.length = a.length) :
    packus16 (List.zipWith e (widenLo a) (widenLo b)) (List.zipWith e (widenHi a) (widenHi b)) =
      List.zipWith (fun x y => satu8 (e (x.setWidth 16) (y.setWidth 16))) a b := by
  rw [packus16, ← List.map_append, ← List.zipWith_append (by simp [h]), widenLo, widenHi, widenLo, widenHi,
    ← List.map_append, ← List.map_append, List.take_append_drop, List.take_append_drop, List.zipWith_map,
    List.map_zipWith]

/-! ### The operations on numbers that fit their elements (R154, R160 to R163) -/

/-- A half-word pair whose high element is 0, reread as a word, is the number its low element holds (R166). -/
theorem zero_append_ofNat {v : Nat} (h : v < 2 ^ 16) : 0#16 ++ BitVec.ofNat 16 v = BitVec.ofNat 32 v := by
  apply BitVec.eq_of_toNat_eq
  simp only [BitVec.toNat_append, BitVec.toNat_ofNat, Nat.zero_mod, Nat.zero_shiftLeft, Nat.zero_or]
  omega

/-- MADD of two samples with coefficients that are not negative is the exact sum of products. -/
theorem maddElem_samples (x y : Byte) {w0 w1 : Nat} (h0 : w0 < 2 ^ 15) (h1 : w1 < 2 ^ 15) :
    maddElem (x.setWidth 16) (y.setWidth 16) (BitVec.ofNat 16 w0) (BitVec.ofNat 16 w1) =
      BitVec.ofNat 32 (w0 * x.toNat + w1 * y.toNat) := by
  have coefficient {w : Nat} (h : w < 2 ^ 15) : (BitVec.ofNat 16 w).toInt = w := by
    rw [BitVec.toInt_eq_toNat_of_lt] <;> simp <;> omega
  have sample (z : Byte) : (z.setWidth 16).toInt = z.toNat := by
    rw [BitVec.toInt_eq_toNat_of_lt] <;> simp <;> omega
  rw [maddElem, coefficient h0, coefficient h1, sample, sample, ← BitVec.ofInt_natCast]
  push_cast
  ring_nf

/-- SRA32 of a word that is not negative divides and drops the remainder. -/
theorem sshiftRight_ofNat {v : Nat} (h : v < 2 ^ 31) (n : Nat) :
    (BitVec.ofNat 32 v).sshiftRight n = BitVec.ofNat 32 (v / 2 ^ n) := by
  have hv : v / 2 ^ n ≤ v := Nat.div_le_self v (2 ^ n)
  have hmsb : (BitVec.ofNat 32 v).msb = false := by
    rw [BitVec.msb_eq_false_iff_two_mul_lt, BitVec.toNat_ofNat]; omega
  apply BitVec.eq_of_toNat_eq
  rw [BitVec.toNat_sshiftRight_of_msb_false hmsb, Nat.shiftRight_eq_div_pow, BitVec.toNat_ofNat, BitVec.toNat_ofNat,
    Nat.mod_eq_of_lt (by omega), Nat.mod_eq_of_lt (by omega)]

/-- Saturation to a half-word keeps what fits it. -/
theorem sat16_ofNat {v : Nat} (h : v < 2 ^ 15) : sat16 (BitVec.ofNat 32 v) = BitVec.ofNat 16 v := by
  have hv : (BitVec.ofNat 32 v).toInt = v := by
    rw [BitVec.toInt_eq_toNat_of_lt] <;> simp <;> omega
  have hclamp : clampInt v (-32768) 32767 = v := by rw [clampInt]; omega
  rw [sat16, hv, hclamp, BitVec.ofInt_natCast]

/-- Saturation to a sample keeps what is one. -/
theorem satu8_ofNat {v : Nat} (h : v ≤ 255) : satu8 (BitVec.ofNat 16 v) = BitVec.ofNat 8 v := by
  have hv : (BitVec.ofNat 16 v).toInt = v := by
    rw [BitVec.toInt_eq_toNat_of_lt] <;> simp <;> omega
  have hclamp : clampInt v 0 255 = v := by rw [clampInt]; omega
  rw [satu8, hv, hclamp, BitVec.ofInt_natCast]

/-! ### The weighted mean `blendOf` -/

/-- A weighted mean of samples is a sample, rounding included. -/
theorem blendOf_le {w0 w1 sh x y : Nat} (hsh : 0 < sh) (hw : w0 + w1 = 2 ^ sh) (hx : x ≤ 255) (hy : y ≤ 255) :
    blendOf w0 w1 sh x y ≤ 255 := by
  have hround : 2 ^ (sh - 1) < 2 ^ sh := Nat.pow_lt_pow_right (by decide) (by omega)
  have hsum : w0 * x + w1 * y ≤ 2 ^ sh * 255 :=
    calc w0 * x + w1 * y ≤ w0 * 255 + w1 * 255 := by gcongr
      _ = 2 ^ sh * 255 := by rw [← hw, Nat.add_mul]
  exact Nat.le_of_lt_succ (Nat.div_lt_of_lt_mul (by omega))

/-- The weighted mean of a sample with itself is the sample: the rounding constant is below the divisor. -/
theorem blendOf_self {w0 w1 sh : Nat} (hsh : 0 < sh) (hw : w0 + w1 = 2 ^ sh) (x : Nat) : blendOf w0 w1 sh x x = x := by
  have hround : 2 ^ (sh - 1) < 2 ^ sh := Nat.pow_lt_pow_right (by decide) (by omega)
  rw [blendOf, ← Nat.add_mul, hw, Nat.mul_add_div (by positivity), Nat.div_eq_of_lt hround, Nat.add_zero]

/-! ### R167 -/

/-- The work of BLEND on one interleaved group `g` of lanes of `l` bytes. -/
def blendGroup (w0 w1 : Half) (sh l : Nat) (g : HalfLane) : WordLane :=
  sra32 (add32 (madd g (bcast l w0 w1)) (rereadWords (bcast l (BitVec.ofNat 16 (2 ^ (sh - 1))) 0#16))) sh

theorem blend_eq_byHalves (w0 w1 : Half) (sh : Nat) (a b : ByteLane) :
    blend w0 w1 sh a b = byHalves fun widen ilv => blendGroup w0 w1 sh a.length (ilv (widen a) (widen b)) :=
  rfl

/-- One word of BLEND before it is packed: the weighted sum, rounded by half of 2^sh and shifted. -/
def blendWord (w0 w1 : Half) (sh : Nat) (x y : Half) : Word :=
  (maddElem x y w0 w1 + (0#16 ++ BitVec.ofNat 16 (2 ^ (sh - 1)))).sshiftRight sh

/-- One group of BLEND, element by element on the two lanes it interleaves. -/
theorem blendGroup_interleave (w0 w1 : Half) (sh l : Nat) {p q : HalfLane} (hp : p.length = l / 4)
    (hq : q.length = l / 4) :
    blendGroup w0 w1 sh l (interleave p q) = List.zipWith (blendWord w0 w1 sh) p q := by
  rw [blendGroup, madd_interleave_bcast hp, rereadWords_bcast, add32_replicate (by simp [hp, hq]), sra32,
    List.map_zipWith, List.map_zipWith]
  rfl

/-- One half of BLEND, element by element on the two widened lanes. -/
theorem packs32_blendGroup (w0 w1 : Half) (sh : Nat) {l : Nat} (hl : l % 4 = 0) {p q : HalfLane}
    (hp : p.length = l / 2) (hq : q.length = l / 2) :
    packs32 (blendGroup w0 w1 sh l (ilv16Lo p q)) (blendGroup w0 w1 sh l (ilv16Hi p q)) =
      List.zipWith (fun x y => sat16 (blendWord w0 w1 sh x y)) p q := by
  rw [ilv16Lo, ilv16Hi, blendGroup_interleave, blendGroup_interleave, packs32_zipWith_groups _ (hq.trans hp.symm)]
  all_goals simp only [List.length_take, List.length_drop]; omega

/-- BLEND is element by element on its two lanes, whatever the weights. -/
theorem blend_eq_zipWith (w0 w1 : Half) (sh : Nat) {a b : ByteLane} (h4 : a.length % 4 = 0)
    (hab : b.length = a.length) :
    blend w0 w1 sh a b =
      List.zipWith (fun x y => satu8 (sat16 (blendWord w0 w1 sh (x.setWidth 16) (y.setWidth 16)))) a b := by
  have lower {c : ByteLane} (hc : c.length = a.length) : (widenLo c).length = a.length / 2 := by
    rw [widenLo_length, hc]
  have upper {c : ByteLane} (hc : c.length = a.length) : (widenHi c).length = a.length / 2 := by
    rw [widenHi_length, hc]; omega
  rw [blend_eq_byHalves, byHalves, packs32_blendGroup w0 w1 sh h4 (lower rfl) (lower hab),
    packs32_blendGroup w0 w1 sh h4 (upper rfl) (upper hab), packus16_zipWith_halves _ hab]

/-- One element of BLEND never saturates, so it is the weighted mean. -/
theorem blend_element {w0 w1 sh : Nat} (hsh : 0 < sh) (hsh' : sh < 15) (hw0 : 0 < w0) (hw1 : 0 < w1)
    (hw : w0 + w1 = 2 ^ sh) (x y : Byte) :
    satu8 (sat16 (blendWord (BitVec.ofNat 16 w0) (BitVec.ofNat 16 w1) sh (x.setWidth 16) (y.setWidth 16))) =
      BitVec.ofNat 8 (blendOf w0 w1 sh x.toNat y.toNat) := by
  have hx : x.toNat ≤ 255 := by omega
  have hy : y.toNat ≤ 255 := by omega
  have hpow : 2 ^ sh ≤ 2 ^ 14 := Nat.pow_le_pow_right (by decide) (by omega)
  have hround : 2 ^ (sh - 1) ≤ 2 ^ 14 := Nat.pow_le_pow_right (by decide) (by omega)
  have hx' : w0 * x.toNat ≤ 2 ^ 14 * 255 := Nat.mul_le_mul (by omega) hx
  have hy' : w1 * y.toNat ≤ 2 ^ 14 * 255 := Nat.mul_le_mul (by omega) hy
  have hle : blendOf w0 w1 sh x.toNat y.toNat ≤ 255 := blendOf_le hsh hw hx hy
  calc satu8 (sat16 (blendWord (BitVec.ofNat 16 w0) (BitVec.ofNat 16 w1) sh (x.setWidth 16) (y.setWidth 16)))
    _ = satu8 (sat16 (BitVec.ofNat 32 (blendOf w0 w1 sh x.toNat y.toNat))) := by
      rw [blendWord, maddElem_samples x y (by omega) (by omega), zero_append_ofNat (by omega), ← BitVec.ofNat_add,
        sshiftRight_ofNat (by omega), blendOf]
    _ = BitVec.ofNat 8 (blendOf w0 w1 sh x.toNat y.toNat) := by rw [sat16_ofNat (by omega), satu8_ofNat hle]

/-- BLEND with weights that sum to 2^sh is the weighted mean, element by element. -/
theorem blend_eq_blendOf {w0 w1 sh : Nat} (hsh : 0 < sh) (hsh' : sh < 15) (hw0 : 0 < w0) (hw1 : 0 < w1)
    (hw : w0 + w1 = 2 ^ sh) {a b : ByteLane} (h4 : a.length % 4 = 0) (hab : b.length = a.length) :
    blend (BitVec.ofNat 16 w0) (BitVec.ofNat 16 w1) sh a b =
      List.zipWith (fun x y => BitVec.ofNat 8 (blendOf w0 w1 sh x.toNat y.toNat)) a b := by
  simp only [blend_eq_zipWith _ _ _ h4 hab, blend_element hsh hsh' hw0 hw1 hw]

/-- Settles O51: BLEND is the weighted mean of each pair of samples, which is a sample, and equal to both when they are
equal. -/
theorem blendFormula : Obligations.BlendFormula := by
  unfold Obligations.BlendFormula
  intro w0 w1 sh a b hsh hw0 hw1 hw hl hab
  have hpos : 0 < sh := by omega
  have hsmall : sh < 15 := by omega
  have h4 : a.length % 4 = 0 := by omega
  refine ⟨?formula, ?sample, ?constant⟩
  case formula => exact blend_eq_blendOf hpos hsmall hw0 hw1 hw h4 hab
  case sample => exact fun x y => blendOf_le hpos hw (by omega) (by omega)
  case constant =>
    rw [blend_eq_blendOf hpos hsmall hw0 hw1 hw h4 rfl, List.zipWith_self]
    simp [blendOf_self hpos hw]

end Sys2Proof.Machine

/-!
PROOFS, family 43_kernels_cubic: the symmetry shortcut of R169 against the four-tap sum of R168, one interleaved group
at a time, and the statement on R215.
-/

namespace Sys2Proof.Machine

/-! ### One element: the sum of two samples fits a half-word, so the coefficient distributes over it -/

/-- A widened sample, read as signed, is the sample. -/
theorem toInt_setWidth_sample (x : Byte) : (x.setWidth 16).toInt = x.toNat := by
  rw [BitVec.toInt_eq_toNat_of_lt] <;> simp <;> omega

/-- ADD16 of two widened samples does not wrap. -/
theorem toInt_add_samples (x y : Byte) : (x.setWidth 16 + y.setWidth 16).toInt = (x.toNat + y.toNat : Int) := by
  have hsum : (x.setWidth 16 + y.setWidth 16).toNat = x.toNat + y.toNat := by
    simp only [BitVec.toNat_add, BitVec.toNat_setWidth]; omega
  rw [BitVec.toInt_eq_toNat_of_lt (by omega), hsum, Nat.cast_add]

/-- MADD's element on the inner and the outer sum is the sum of MADD's elements on the four samples; ADD32 wraps exactly
where the two products of the shortcut do. -/
theorem maddElem_inner_outer (c0 c1 : Half) (x0 x1 x2 x3 : Byte) :
    maddElem (x1.setWidth 16 + x2.setWidth 16) (x0.setWidth 16 + x3.setWidth 16) c0 c1 =
      maddElem (x0.setWidth 16) (x1.setWidth 16) c1 c0 + maddElem (x2.setWidth 16) (x3.setWidth 16) c0 c1 := by
  simp only [maddElem, toInt_add_samples, toInt_setWidth_sample, ← BitVec.ofInt_add]
  ring_nf

/-! ### One interleaved group -/

/-- Samples as half-words: what WIDENLO and WIDENHI give of a half (R154, R155). -/
def widened (a : ByteLane) : HalfLane := a.map (·.setWidth 16)

theorem widenLo_eq_widened (a : ByteLane) : widenLo a = widened (a.take (a.length / 2)) := rfl

theorem widenHi_eq_widened (a : ByteLane) : widenHi a = widened (a.drop (a.length / 2)) := rfl

@[simp] theorem widened_length (a : ByteLane) : (widened a).length = a.length := List.length_map _

theorem take_widened (n : Nat) (a : ByteLane) : (widened a).take n = widened (a.take n) := List.map_take.symm

theorem drop_widened (n : Nat) (a : ByteLane) : (widened a).drop n = widened (a.drop n) := List.map_drop.symm

theorem take_add16 (n : Nat) (p q : HalfLane) : (add16 p q).take n = add16 (p.take n) (q.take n) := List.take_zipWith

theorem drop_add16 (n : Nat) (p q : HalfLane) : (add16 p q).drop n = add16 (p.drop n) (q.drop n) := List.drop_zipWith

section Group

variable (c0 c1 : Half) {l : Nat} {a0 a1 a2 a3 : ByteLane}

/-- The shortcut on one group of four rows of samples, before rounding. -/
theorem madd_interleave_inner_outer (h0 : a0.length = l / 4) (h1 : a1.length = l / 4) (h2 : a2.length = l / 4)
    (h3 : a3.length = l / 4) :
    madd (interleave (add16 (widened a1) (widened a2)) (add16 (widened a0) (widened a3))) (bcast l c0 c1) =
      add32 (madd (interleave (widened a0) (widened a1)) (bcast l c1 c0))
        (madd (interleave (widened a2) (widened a3)) (bcast l c0 c1)) := by
  rw [madd_interleave_bcast (by simp [h1, h2]), madd_interleave_bcast (by simp [h0]),
    madd_interleave_bcast (by simp [h2])]
  apply List.ext_getElem
  case hl => simp [add16, add32, widened, h0, h1, h2, h3]
  case h =>
    intro i _ _
    simpa [add16, add32, widened] using maddElem_inner_outer c0 c1 _ _ _ _

/-- The shortcut on the first group of a half. -/
theorem madd_ilv16Lo_inner_outer (h4 : l % 4 = 0) (h0 : a0.length = l / 2) (h1 : a1.length = l / 2)
    (h2 : a2.length = l / 2) (h3 : a3.length = l / 2) :
    madd (ilv16Lo (add16 (widened a1) (widened a2)) (add16 (widened a0) (widened a3))) (bcast l c0 c1) =
      add32 (madd (ilv16Lo (widened a0) (widened a1)) (bcast l c1 c0))
        (madd (ilv16Lo (widened a2) (widened a3)) (bcast l c0 c1)) := by
  simp only [ilv16Lo, take_add16, take_widened, add16_length, widened_length, h0, h1, h2, h3, Nat.min_self]
  apply madd_interleave_inner_outer <;> simp only [List.length_take] <;> omega

/-- The shortcut on the second group of a half. -/
theorem madd_ilv16Hi_inner_outer (h4 : l % 4 = 0) (h0 : a0.length = l / 2) (h1 : a1.length = l / 2)
    (h2 : a2.length = l / 2) (h3 : a3.length = l / 2) :
    madd (ilv16Hi (add16 (widened a1) (widened a2)) (add16 (widened a0) (widened a3))) (bcast l c0 c1) =
      add32 (madd (ilv16Hi (widened a0) (widened a1)) (bcast l c1 c0))
        (madd (ilv16Hi (widened a2) (widened a3)) (bcast l c0 c1)) := by
  simp only [ilv16Hi, drop_add16, drop_widened, add16_length, widened_length, h0, h1, h2, h3, Nat.min_self]
  apply madd_interleave_inner_outer <;> simp only [List.length_drop] <;> omega

end Group

/-! ### R215 -/

/-- A composite is its work on the four groups. -/
theorem byHalves_congr {f g : (ByteLane → HalfLane) → (HalfLane → HalfLane → HalfLane) → WordLane}
    (hLoLo : f widenLo ilv16Lo = g widenLo ilv16Lo) (hLoHi : f widenLo ilv16Hi = g widenLo ilv16Hi)
    (hHiLo : f widenHi ilv16Lo = g widenHi ilv16Lo) (hHiHi : f widenHi ilv16Hi = g widenHi ilv16Hi) :
    byHalves f = byHalves g := by
  simp only [byHalves, hLoLo, hLoHi, hHiLo, hHiHi]

/-- Settles O53: in each of the four groups, the inner and the outer sum of the rows do not wrap, so the shortcut's
products are the four taps' products. -/
theorem symmetryShortcutEquivalence : Obligations.SymmetryShortcutEquivalence := by
  unfold Obligations.SymmetryShortcutEquivalence
  intro c0 c1 r0 r1 r2 r3 hl h1 h2 h3
  have h4 : r0.length % 4 = 0 := by omega
  have lower {r : ByteLane} (h : r.length = r0.length) : (r.take (r.length / 2)).length = r0.length / 2 := by
    simp only [List.length_take]; omega
  have upper {r : ByteLane} (h : r.length = r0.length) : (r.drop (r.length / 2)).length = r0.length / 2 := by
    simp only [List.length_drop]; omega
  apply byHalves_congr <;> simp only [widenLo_eq_widened, widenHi_eq_widened]
  case hLoLo => rw [madd_ilv16Lo_inner_outer c0 c1 h4 (lower rfl) (lower h1) (lower h2) (lower h3)]
  case hLoHi => rw [madd_ilv16Hi_inner_outer c0 c1 h4 (lower rfl) (lower h1) (lower h2) (lower h3)]
  case hHiLo => rw [madd_ilv16Lo_inner_outer c0 c1 h4 (upper rfl) (upper h1) (upper h2) (upper h3)]
  case hHiHi => rw [madd_ilv16Hi_inner_outer c0 c1 h4 (upper rfl) (upper h1) (upper h2) (upper h3)]

end Sys2Proof.Machine

/-!
PROOFS, family 60_exceptions: the interrupt line after each update of the state that moves a flag, the steps that raise
CFGERR, and the statements on R293, R295 and R300.
-/

namespace Sys2Proof.Machine

/-! ### The interrupt line after each update of the state (R295) -/

theorem State.irq_iff (s : State) :
    s.irq = true ↔ s.ie = true ∧ (s.status.done = true ∨ s.status.cfgerr = true) := by
  rw [State.irq, Bool.and_eq_true, Bool.or_eq_true]

/-- An overrun raises no interrupt and withdraws none (R300). -/
@[simp] theorem State.overrun_irq (s : State) : s.overrun.irq = s.irq := rfl

/-- CFGERR alone drives the line, whatever DONE is. -/
@[simp] theorem State.raiseCfgErr_irq (s : State) (c : BitVec 4) : (s.raiseCfgErr c).irq = s.ie := by
  simp [State.irq]

/-- Acceptance takes the DONE part away and leaves the CFGERR part. -/
@[simp] theorem State.accept_irq (s : State) (w : Word) : (s.accept w).irq = (s.ie && s.status.cfgerr) := by
  simp [State.irq]

@[simp] theorem State.hardReset_irq (s : State) (xs : List Word) : (s.hardReset xs).irq = false := rfl

theorem State.irq_of_ie_false {s : State} (h : s.ie = false) : s.irq = false := by
  rw [State.irq, h, Bool.false_and]

/-- The word `wr STATUS, 0x6` has a 1 at both flags of the line, and any such word withdraws it. -/
theorem State.writeStatus_irq_of_ack (s : State) {v : Word} (hdone : v.getLsbD 1 = true)
    (hcfgerr : v.getLsbD 2 = true) : (s.writeStatus v).irq = false := by
  simp [State.irq, hdone, hcfgerr]

/-! ### R300 -/

/-- Settles O6, by the rules of R40 for the two writes: the step at CMD is `State.overrun`. -/
theorem busyCommandWriteOverruns : Obligations.BusyCommandWriteOverruns := by
  unfold Obligations.BusyCommandWriteOverruns
  refine fun s rest v hb => ⟨fun h => ?cmd, fun n hn h => ?data⟩
  case cmd => exact ⟨_, step_write_cmd_busy h hb, rfl, State.overrun_irq _⟩
  case data => exact step_write_data_busy h hn hb

/-! ### R293 -/

/-- A TAPGEN word with an infinite or NaN shape parameter raises CFGERR with cause 4, and nothing else (R108, R291). -/
theorem step_write_cmd_nonfinite {s : State} {rest : List Event} {w : Word} {st : Siting} {sc : Scan}
    (h : s.events = .write 0#6 w :: rest) (hb : s.status.busy = false) (hd : decode (.cmd w) = .ok (tapgenInstr st sc))
    (hinf : s.shape.fbHi.toNat / 2 ^ 20 % 2 ^ 11 = 0x7FF ∨ s.shape.fcHi.toNat / 2 ^ 20 % 2 ^ 11 = 0x7FF) :
    step s = .next (State.raiseCfgErr { s with events := rest } causeNonfinite) := by
  rw [step_write_cmd_ok h hb hd]
  exact exec_tapgenInstr_nonfinite st sc hb ((finite_shape_eq_false_iff _).mpr hinf)

/-- Settles O7: the decoder's three defects and TAPGEN's own all end in `State.raiseCfgErr`, with the cause of each. -/
theorem rejectedWordRaisesCfgErr : Obligations.RejectedWordRaisesCfgErr := by
  unfold Obligations.RejectedWordRaisesCfgErr
  intro s w rest hev hb raised
  have raised_of_step {c : BitVec 4} (h : step s = .next (State.raiseCfgErr { s with events := rest } c)) : raised c :=
    ⟨_, h, rfl, State.raiseCfgErr_irq _ c, hb⟩
  refine ⟨fun hd => ?rsvdOp, fun hd => ?mbz, fun hd => ?rsvdItype, fun st sc hd hinf => ?nonfinite⟩
  case rsvdOp => exact raised_of_step (step_write_cmd_error hev hb hd)
  case mbz => exact raised_of_step (step_write_cmd_error hev hb hd)
  case rsvdItype => exact raised_of_step (step_write_cmd_error hev hb hd)
  case nonfinite => exact raised_of_step (step_write_cmd_nonfinite hev hb hd hinf)

/-! ### R295 -/

/-- A reset at the head of the queue (R320); the bytes of a data race go with the command it abandons. -/
theorem step_reset {s : State} {rest : List Event} (h : s.events = .reset :: rest) :
    step s = .next (State.hardReset { s with events := rest } (State.spoiled { s with events := rest })) :=
  step_of_fetch_answer (by simp [State.fetch, h])

/-- The shape that TAPGEN accepts, in the registers (R108, R130). -/
theorem finite_shape_iff (s : State) :
    (finitePattern s.fb && finitePattern s.fc) = true ↔
      s.shape.fbHi.toNat / 2 ^ 20 % 2 ^ 11 ≠ 0x7FF ∧ s.shape.fcHi.toNat / 2 ^ 20 % 2 ^ 11 ≠ 0x7FF := by
  rw [← Bool.not_eq_false, finite_shape_eq_false_iff, not_or]

/-- Settles O11: the formula, then the line after each of the host's writes, a reset, and acceptance. -/
theorem interruptLineFollowsFlags : Obligations.InterruptLineFollowsFlags := by
  unfold Obligations.InterruptLineFollowsFlags
  refine ⟨State.irq_iff, fun s b => rfl, fun s v rest h hdone hcfgerr => ?ack, fun s rest h => ?disable,
    fun s rest h => ?reset, rfl, ?acceptance⟩
  case ack =>
    refine ⟨_, step_write_reg h (by decide), ?_⟩
    rw [State.writeReg_at_status]
    exact State.writeStatus_irq_of_ack _ hdone hcfgerr
  case disable =>
    refine ⟨_, step_write_reg h (by decide), ?_⟩
    rw [State.writeReg_at_ctrl]
    exact ⟨State.irq_of_ie_false rfl, rfl⟩
  case reset => exact ⟨_, step_reset h, State.hardReset_irq _ _⟩
  case acceptance =>
    intro s hb cleared
    have cleared_of_accept {i : Instr} {w : Word} (h : exec i s = .next (s.accept w)) : cleared i :=
      ⟨_, h, rfl, by rw [State.accept_irq, Bool.and_eq_true]⟩
    refine ⟨fun it st sc lw ro => ?resample, fun lw ro => ?hshift, fun st sc hfb hfc => ?tapgen⟩
    case resample => exact cleared_of_accept (exec_resampleInstr_idle it st sc lw ro hb)
    case hshift => exact cleared_of_accept (exec_hshift_idle lw ro hb)
    case tapgen => exact cleared_of_accept (exec_tapgenInstr_finite st sc hb ((finite_shape_iff s).mpr ⟨hfb, hfc⟩))

end Sys2Proof.Machine

/-!
PROOFS, the two encodings: what the decoder and the encoder make of each other's answers, and how many words are legal.
-/

namespace Sys2Proof.Laws

open Sys2Proof

/-- `Laws/PerInstr.lean` for every instruction at once. -/
theorem roundTrip : ∀ i : Instr, RoundTrip.Statement i
  | .nop => RoundTrip.nop
  | .resamplePointS0P lw ro => RoundTrip.resamplePointS0P lw ro
  | .resamplePointS1P lw ro => RoundTrip.resamplePointS1P lw ro
  | .resamplePointS2P lw ro => RoundTrip.resamplePointS2P lw ro
  | .resamplePointS3P lw ro => RoundTrip.resamplePointS3P lw ro
  | .resamplePointS0I lw ro => RoundTrip.resamplePointS0I lw ro
  | .resamplePointS1I lw ro => RoundTrip.resamplePointS1I lw ro
  | .resamplePointS2I lw ro => RoundTrip.resamplePointS2I lw ro
  | .resamplePointS3I lw ro => RoundTrip.resamplePointS3I lw ro
  | .resampleLinearS0P lw ro => RoundTrip.resampleLinearS0P lw ro
  | .resampleLinearS1P lw ro => RoundTrip.resampleLinearS1P lw ro
  | .resampleLinearS2P lw ro => RoundTrip.resampleLinearS2P lw ro
  | .resampleLinearS3P lw ro => RoundTrip.resampleLinearS3P lw ro
  | .resampleLinearS0I lw ro => RoundTrip.resampleLinearS0I lw ro
  | .resampleLinearS1I lw ro => RoundTrip.resampleLinearS1I lw ro
  | .resampleLinearS2I lw ro => RoundTrip.resampleLinearS2I lw ro
  | .resampleLinearS3I lw ro => RoundTrip.resampleLinearS3I lw ro
  | .resampleCubicS0P lw ro => RoundTrip.resampleCubicS0P lw ro
  | .resampleCubicS1P lw ro => RoundTrip.resampleCubicS1P lw ro
  | .resampleCubicS2P lw ro => RoundTrip.resampleCubicS2P lw ro
  | .resampleCubicS3P lw ro => RoundTrip.resampleCubicS3P lw ro
  | .resampleCubicS0I lw ro => RoundTrip.resampleCubicS0I lw ro
  | .resampleCubicS1I lw ro => RoundTrip.resampleCubicS1I lw ro
  | .resampleCubicS2I lw ro => RoundTrip.resampleCubicS2I lw ro
  | .resampleCubicS3I lw ro => RoundTrip.resampleCubicS3I lw ro
  | .hshift lw ro => RoundTrip.hshift lw ro
  | .tapgenS0P => RoundTrip.tapgenS0P
  | .tapgenS1P => RoundTrip.tapgenS1P
  | .tapgenS2P => RoundTrip.tapgenS2P
  | .tapgenS3P => RoundTrip.tapgenS3P
  | .tapgenS0I => RoundTrip.tapgenS0I
  | .tapgenS1I => RoundTrip.tapgenS1I
  | .tapgenS2I => RoundTrip.tapgenS2I
  | .tapgenS3I => RoundTrip.tapgenS3I
  | .ldl => RoundTrip.ldl
  | .stl => RoundTrip.stl
  | .avg2 => RoundTrip.avg2
  | .avg4 => RoundTrip.avg4
  | .widenLo => RoundTrip.widenLo
  | .widenHi => RoundTrip.widenHi
  | .ilv16Lo => RoundTrip.ilv16Lo
  | .ilv16Hi => RoundTrip.ilv16Hi
  | .add16 => RoundTrip.add16
  | .add32 => RoundTrip.add32
  | .madd => RoundTrip.madd
  | .sra32 imm => RoundTrip.sra32 imm
  | .packs32 => RoundTrip.packs32
  | .packus16 => RoundTrip.packus16
  | .bcast => RoundTrip.bcast
  | .shiftIn => RoundTrip.shiftIn

end Sys2Proof.Laws

namespace Sys2Proof

/-! ### The encoder on the families of command words (R110) -/

theorem encode_resampleInstr (it : IType) (st : Siting) (sc : Scan) (lw : LaneWidth) (ro : RowOrder) :
    encode (resampleInstr it st sc lw ro) = .cmd (resampleWord it st sc lw ro) := by
  cases it <;> cases st <;> cases sc <;> rfl

theorem encode_tapgenInstr (st : Siting) (sc : Scan) : encode (tapgenInstr st sc) = .cmd (tapgenWord st sc) := by
  cases st <;> cases sc <;> rfl

theorem wellFormed_resampleInstr (it : IType) (st : Siting) (sc : Scan) (lw : LaneWidth) (ro : RowOrder) :
    (resampleInstr it st sc lw ro).wellFormed = true := by
  cases it <;> cases st <;> cases sc <;> rfl

theorem wellFormed_tapgenInstr (st : Siting) (sc : Scan) : (tapgenInstr st sc).wellFormed = true := by
  cases st <;> cases sc <;> rfl

/-- A command word that decodes is the word of its instruction. -/
theorem encode_of_decode_cmd {w : Word} {i : Instr} (h : decode (.cmd w) = .ok i) :
    i.wellFormed = true ∧ encode i = .cmd w := by
  obtain ⟨rfl, rfl⟩ | ⟨it, st, sc, lw, ro, rfl, rfl⟩ | ⟨lw, ro, rfl, rfl⟩ | ⟨st, sc, rfl, rfl⟩ := decode_cmd_ok_cases h
  · exact ⟨rfl, rfl⟩
  · exact ⟨wellFormed_resampleInstr it st sc lw ro, encode_resampleInstr it st sc lw ro⟩
  · exact ⟨rfl, rfl⟩
  · exact ⟨wellFormed_tapgenInstr st sc, encode_tapgenInstr st sc⟩

/-! ### Lane selects (R112, R113) -/

/-- A select is put together from its two fields again (R112). -/
theorem selectWord_of_fields (w : BitVec 9) : selectWord (w.extractLsb' 0 4).toNat (w.extractLsb' 4 5).toNat = w := by
  apply BitVec.eq_of_toNat_eq
  simp only [selectWord, extractLsb'_toNat_eq_div_mod, BitVec.toNat_ofNat, Nat.reducePow]
  omega

theorem lopInstr_encode_of_imm_zero (lop : BitVec 4) :
    (lopInstr lop 0#5).wellFormed = true ∧ encode (lopInstr lop 0#5) = .lop (selectWord lop.toNat 0) := by
  revert lop; decide

/-- IMM is the shift amount of SRA32, and 5 bits hold every one (R161). -/
theorem lopInstr_encode_of_sra32 (imm : BitVec 5) :
    (lopInstr 11#4 imm).wellFormed = true ∧ encode (lopInstr 11#4 imm) = .lop (selectWord 11 imm.toNat) :=
  ⟨decide_eq_true imm.isLt, rfl⟩

/-- The one check on a lane select (R113). -/
theorem decode_lop_eq_check (w : BitVec 9) :
    decode (.lop w) =
      if w.extractLsb' 0 4 ≠ 11#4 ∧ w.extractLsb' 4 5 ≠ 0#5 then .error .rsvdSelect
      else .ok (lopInstr (w.extractLsb' 0 4) (w.extractLsb' 4 5)) := rfl

/-- A lane select that decodes is the select of its instruction. -/
theorem encode_of_decode_lop {w : BitVec 9} {i : Instr} (h : decode (.lop w) = .ok i) :
    i.wellFormed = true ∧ encode i = .lop w := by
  rw [decode_lop_eq_check] at h
  split_ifs at h with hrsvd
  obtain rfl : lopInstr (w.extractLsb' 0 4) (w.extractLsb' 4 5) = i := by injection h
  have hw := selectWord_of_fields w
  by_cases himm : w.extractLsb' 4 5 = 0#5
  · rw [himm] at hw ⊢
    obtain ⟨hwf, he⟩ := lopInstr_encode_of_imm_zero (w.extractLsb' 0 4)
    exact ⟨hwf, he.trans (congrArg Code.lop hw)⟩
  · have hlop : w.extractLsb' 0 4 = 11#4 := not_not.mp fun hne => hrsvd ⟨hne, himm⟩
    rw [hlop] at hw ⊢
    obtain ⟨hwf, he⟩ := lopInstr_encode_of_sra32 (w.extractLsb' 4 5)
    exact ⟨hwf, he.trans (congrArg Code.lop hw)⟩

/-! ### R100, R108, R110 to R113 -/

/-- Settles O1: a code that decodes is put together from its fields again, and each instruction decodes from its own
word. -/
theorem decodeInvertsEncode : Obligations.DecodeInvertsEncode := by
  unfold Obligations.DecodeInvertsEncode
  refine fun c i => ⟨fun h => ?encoded, fun ⟨hwf, he⟩ => ?decoded⟩
  case encoded =>
    cases c with
    | cmd w => exact encode_of_decode_cmd h
    | lop w => exact encode_of_decode_lop h
  case decoded => exact he ▸ Laws.roundTrip i hwf

/-- Settles O2: each word is evaluated. -/
theorem sampleWordsDecode : Obligations.SampleWordsDecode := by
  unfold Obligations.SampleWordsDecode
  decide

/-! ### Counting the legal words -/

/-- The condition on the fields of a command word below 2^11, `k` its bits 10 to 4 (R107, R108). -/
def legalFields (op k : Nat) : Bool :=
  decide (op < 4 ∧ (op = 0 → k = 0) ∧ (op = 1 → k % 4 ≠ 3) ∧ (op = 2 → k % 32 = 0) ∧ (op = 3 → k % 4 = 0 ∧ k < 32))

theorem decode_cmd_isOk_eq {op k : Nat} (hop : op < 16) (hk : k < 128) :
    (decode (.cmd (BitVec.ofNat 32 (op + 16 * k)))).isOk = legalFields op k := by
  have hw : (BitVec.ofNat 32 (op + 16 * k)).toNat = op + 16 * k := by rw [BitVec.toNat_ofNat]; omega
  rw [decode_cmd_eq_checks, hw, legalFields]
  split_ifs <;> simp only [Except.isOk, Except.toBool, Bool.true_eq, Bool.false_eq, decide_eq_true_eq,
    decide_eq_false_iff_not] <;> omega

theorem decode_lop_isOk_eq {k : Nat} (hk : k < 512) :
    (decode (.lop (BitVec.ofNat 9 k))).isOk = decide (k % 16 = 11 ∨ k < 16) := by
  have hw : (BitVec.ofNat 9 k).toNat = k := by rw [BitVec.toNat_ofNat]; omega
  rw [decode_lop_eq_check]
  simp only [ne_eq, extractLsb'_eq_ofNat_iff, hw]
  split_ifs <;> simp only [Except.isOk, Except.toBool, Bool.true_eq, Bool.false_eq, decide_eq_true_eq,
    decide_eq_false_iff_not] <;> omega

/-- A must-be-zero bit above BU rejects a word whatever its `OP` (R107). -/
theorem decode_cmd_of_high {w : Word} (h : 2 ^ 11 ≤ w.toNat) : ∃ r, decode (.cmd w) = .error r := by
  have hmbz : w.toNat / 2048 ≠ 0 := by omega
  rw [decode_cmd_eq_checks]
  split_ifs
  · exact ⟨_, rfl⟩
  · exact ⟨_, rfl⟩

theorem length_filter_legalFields {op : Nat} (h : op < 16) :
    ((List.range 128).filter (legalFields op)).length =
      if op = 0 then 1 else if op = 1 then 96 else if op = 2 then 4 else if op = 3 then 8 else 0 := by
  by_cases hop : op < 4
  · interval_cases op <;> decide +kernel
  · have hnone : (List.range 128).filter (legalFields op) = [] := by
      simp [legalFields, hop]
    rw [hnone, if_neg (by omega), if_neg (by omega), if_neg (by omega), if_neg (by omega)]
    rfl

/-- Settles O3: the legal words are those whose fields pass one condition on numbers, and those are counted. -/
theorem legalWordsCounted : Obligations.LegalWordsCounted := by
  unfold Obligations.LegalWordsCounted
  refine ⟨fun w => decode_cmd_of_high, fun op hop => ?commands, ?selects⟩
  case commands =>
    rw [← length_filter_legalFields hop]
    exact congrArg List.length (List.filter_congr fun k hk => decode_cmd_isOk_eq hop (List.mem_range.mp hk))
  case selects =>
    rw [List.filter_congr fun k hk => decode_lop_isOk_eq (List.mem_range.mp hk)]
    decide +kernel

end Sys2Proof

/-!
PROOFS, the machine's step: the fields of the words of the four commands, everything one step can do, what acceptance
and completion leave, and the statements on single steps of an idle block.
-/

namespace Sys2Proof

/-! ### The fields of the words of the commands (R100, R110) -/

theorem commandWord_fields {op it st il lw bu : Nat} (hop : op < 16) (hit : it < 4) (hst : st < 4) (hil : il < 2)
    (hlw : lw < 2) (hbu : bu < 2) :
    (commandWord op it st il lw bu).extractLsb' 0 4 = BitVec.ofNat 4 op ∧
    (commandWord op it st il lw bu).extractLsb' 4 2 = BitVec.ofNat 2 it ∧
    (commandWord op it st il lw bu).extractLsb' 6 2 = BitVec.ofNat 2 st ∧
    (commandWord op it st il lw bu).extractLsb' 8 1 = BitVec.ofNat 1 il ∧
    (commandWord op it st il lw bu).extractLsb' 9 1 = BitVec.ofNat 1 lw ∧
    (commandWord op it st il lw bu).extractLsb' 10 1 = BitVec.ofNat 1 bu := by
  have hw : (commandWord op it st il lw bu).toNat = op + it * 16 + st * 64 + il * 256 + lw * 512 + bu * 1024 := by
    rw [commandWord, BitVec.toNat_ofNat]; omega
  simp only [extractLsb'_eq_ofNat_iff, hw]
  omega

theorem IType.code_lt (it : IType) : it.code < 4 := by cases it <;> decide

theorem Siting.code_lt (st : Siting) : st.code < 4 := by cases st <;> decide

theorem Scan.code_lt (sc : Scan) : sc.code < 2 := by cases sc <;> decide

theorem LaneWidth.code_lt (lw : LaneWidth) : lw.code < 2 := by cases lw <;> decide

theorem RowOrder.code_lt (ro : RowOrder) : ro.code < 2 := by cases ro <;> decide

theorem itypeOf_ofNat_code (it : IType) : itypeOf (BitVec.ofNat 2 it.code) = it := by cases it <;> rfl

theorem sitingOf_ofNat_code (st : Siting) : sitingOf (BitVec.ofNat 2 st.code) = st := by cases st <;> rfl

theorem scanOf_ofNat_code (sc : Scan) : scanOf (BitVec.ofNat 1 sc.code) = sc := by cases sc <;> rfl

theorem laneWidthOf_ofNat_code (lw : LaneWidth) : laneWidthOf (BitVec.ofNat 1 lw.code) = lw := by cases lw <;> rfl

theorem rowOrderOf_ofNat_code (ro : RowOrder) : rowOrderOf (BitVec.ofNat 1 ro.code) = ro := by cases ro <;> rfl

section Fields

variable (it : IType) (st : Siting) (sc : Scan) (lw : LaneWidth) (ro : RowOrder)

theorem resampleWord_fields :
    (resampleWord it st sc lw ro).extractLsb' 0 4 = 1#4 ∧
    itypeOf ((resampleWord it st sc lw ro).extractLsb' 4 2) = it ∧
    sitingOf ((resampleWord it st sc lw ro).extractLsb' 6 2) = st ∧
    scanOf ((resampleWord it st sc lw ro).extractLsb' 8 1) = sc ∧
    laneWidthOf ((resampleWord it st sc lw ro).extractLsb' 9 1) = lw ∧
    rowOrderOf ((resampleWord it st sc lw ro).extractLsb' 10 1) = ro := by
  obtain ⟨hop, hit, hst, hil, hlw, hbu⟩ :=
    commandWord_fields (op := 1) (by decide) it.code_lt st.code_lt sc.code_lt lw.code_lt ro.code_lt
  rw [resampleWord, hop, hit, hst, hil, hlw, hbu]
  exact ⟨rfl, itypeOf_ofNat_code it, sitingOf_ofNat_code st, scanOf_ofNat_code sc, laneWidthOf_ofNat_code lw,
    rowOrderOf_ofNat_code ro⟩

theorem hshiftWord_fields :
    (hshiftWord lw ro).extractLsb' 0 4 = 2#4 ∧ laneWidthOf ((hshiftWord lw ro).extractLsb' 9 1) = lw ∧
    rowOrderOf ((hshiftWord lw ro).extractLsb' 10 1) = ro := by
  obtain ⟨hop, -, -, -, hlw, hbu⟩ := commandWord_fields (op := 2) (it := 0) (st := 0) (il := 0) (by decide) (by decide)
    (by decide) (by decide) lw.code_lt ro.code_lt
  rw [hshiftWord, hop, hlw, hbu]
  exact ⟨rfl, laneWidthOf_ofNat_code lw, rowOrderOf_ofNat_code ro⟩

theorem tapgenWord_fields : (tapgenWord st sc).extractLsb' 0 4 = 3#4 :=
  (extractLsb'_eq_ofNat_iff _ 0 4 3).mpr (by simpa using Machine.tapgenWord_op st sc)

end Fields

end Sys2Proof

namespace Sys2Proof.Machine

/-! ### What the word in LAST says of the command: kernel, groups, columns, destination (R27, R36, R71) -/

section Last

variable {s : State} {it : IType} {st : Siting} {sc : Scan} {lw : LaneWidth} {ro : RowOrder}

theorem commandKernel_resampleWord : commandKernel (resampleWord it st sc lw ro) = some (dispatch it st sc) := by
  obtain ⟨hop, hit, hst, hil, -, -⟩ := resampleWord_fields it st sc lw ro
  rw [commandKernel, if_pos hop, hit, hst, hil]

theorem commandKernel_hshiftWord : commandKernel (hshiftWord lw ro) = none := by
  obtain ⟨hop, -, -⟩ := hshiftWord_fields lw ro
  rw [commandKernel, hop, if_neg (by decide)]

theorem commandKernel_tapgenWord : commandKernel (tapgenWord st sc) = none := by
  rw [commandKernel, tapgenWord_fields, if_neg (by decide)]

theorem State.groups_of_resample (h : s.last = resampleWord it st sc lw ro) :
    s.groups = groupCount (dispatch it st sc).scan s.height := by
  rw [State.groups, h, commandKernel_resampleWord]

theorem State.groups_of_hshift (h : s.last = hshiftWord lw ro) : s.groups = s.height := by
  obtain ⟨hop, -, -⟩ := hshiftWord_fields lw ro
  rw [State.groups, h, commandKernel_hshiftWord, hop]
  rfl

theorem State.columns_of_resample (h : s.last = resampleWord it st sc lw ro) :
    s.columns = s.width / laneBytes lw := by
  obtain ⟨-, -, -, -, hlw, -⟩ := resampleWord_fields it st sc lw ro
  rw [State.columns, h, hlw]

theorem State.columns_of_hshift (h : s.last = hshiftWord lw ro) : s.columns = s.width / laneBytes lw := by
  obtain ⟨-, hlw, -⟩ := hshiftWord_fields lw ro
  rw [State.columns, h, hlw]

theorem State.destination_of_resample (h : s.last = resampleWord it st sc lw ro) :
    s.destination = some ((s.dstView (2 * s.height)).ordered ro) := by
  obtain ⟨hop, -, -, -, -, hbu⟩ := resampleWord_fields it st sc lw ro
  rw [State.destination, h, if_pos hop, hbu]

theorem State.destination_of_hshift (h : s.last = hshiftWord lw ro) :
    s.destination = some ((s.dstView s.height).ordered ro) := by
  obtain ⟨hop, -, hbu⟩ := hshiftWord_fields lw ro
  rw [State.destination, h, hop, if_neg (by decide), if_pos rfl, hbu]

end Last

/-! ### Everything one step can do -/

/-- What a step makes of a state `u` whose queue it has already taken its event from: the turn of one agent. A lane
select is left out, the lane unit's test port is not software's (R112). -/
inductive Turn (u t : State) : Prop where
  /-- the sequencer finds nothing to do (R320) -/
  | rest (hb : u.status.busy = false) (ht : t = u)
  /-- the sequencer runs the command in LAST (R36) -/
  | sequencer (i : Instr) (hb : u.status.busy = true) (hd : decode (.cmd u.last) = .ok i) (he : exec i u = .next t)
  /-- the host writes a command word to CMD of an idle block (R30) -/
  | command (w : Word) (i : Instr) (hb : u.status.busy = false) (hd : decode (.cmd w) = .ok i) (he : exec i u = .next t)
  /-- the host writes to CMD of a busy block (R300) -/
  | overrun (hb : u.status.busy = true) (ht : t = u.overrun)
  /-- the host writes a word that does not decode (R293) -/
  | reject (r : Reject) (hb : u.status.busy = false) (ht : t = u.raiseCfgErr (rejectCause r))
  /-- the host writes another register -/
  | write (n : BitVec 6) (v : Word) (ht : t = u.writeReg n v)
  /-- the host reads a register -/
  | read (n : BitVec 6) (ht : t = { u with hostData := u.readReg n })
  /-- the host stores a byte -/
  | store (a : Word) (v : Byte) (ht : u.hostStore a v = .next t)
  /-- the host loads a byte -/
  | load (a : Word) (ht : u.hostLoad a = .next t)
  /-- the port performs a pending store (R82) -/
  | perform (k : Nat) (ht : t = u.performOne k)
  /-- reset (R320) -/
  | reset (ht : t = u.hardReset u.spoiled)
  /-- the ports of the lane unit are driven -/
  | drive (ports : LaneUnit) (ht : t = { u with lane := ports })

/-- What comes of a fetched turn. -/
def Fetched.outcome : Fetched → Host.Outcome State Fault Refusal
  | .run i t => exec i t
  | .answer o => o

theorem step_eq_outcome (s : State) : step s = s.fetch.outcome := rfl

theorem turn_of_sequencerTurn {u t : State} (h : u.sequencerTurn.outcome = .next t) : Turn u t := by
  unfold State.sequencerTurn at h
  cases hb : u.status.busy with
  | false =>
    simp only [hb, Bool.false_eq_true, if_false, Fetched.outcome, Host.Outcome.next.injEq] at h
    exact .rest hb h.symm
  | true =>
    simp only [hb, if_true] at h
    cases hd : decode (.cmd u.last) with
    | ok i => exact .sequencer i hb hd (by simpa [hd, Fetched.outcome] using h)
    | error r => simp [hd, Fetched.outcome] at h

theorem turn_of_writeCommand {u t : State} {w : Word} (h : (u.writeCommand w).outcome = .next t) : Turn u t := by
  unfold State.writeCommand at h
  cases hb : u.status.busy with
  | true =>
    simp only [hb, if_true, Fetched.outcome, Host.Outcome.next.injEq] at h
    exact .overrun hb h.symm
  | false =>
    simp only [hb, Bool.false_eq_true, if_false] at h
    cases hd : decode (.cmd w) with
    | ok i => exact .command w i hb hd (by simpa [hd, Fetched.outcome] using h)
    | error r => exact .reject r hb (by simpa [hd, Fetched.outcome] using h.symm)

/-- The state in which a step answers: the queue without the event taken. -/
def State.afterFetch (s : State) : State := { s with events := s.events.tail }

/-- Every step of a queue without lane selects is one agent's turn (R7; log entry 4). -/
theorem step_turn {s t : State} (hq : s.softwareOnly) (h : step s = .next t) : Turn s.afterFetch t := by
  rw [step_eq_outcome] at h
  unfold State.fetch at h
  unfold State.afterFetch
  cases hev : s.events with
  | nil =>
    have hs : { s with events := [] } = s := by rw [← hev]
    rw [List.tail_nil, hs]
    exact turn_of_sequencerTurn (by simpa [hev] using h)
  | cons e rest =>
    rw [List.tail_cons]
    simp only [hev] at h
    cases e with
    | write n v =>
      by_cases hn : n = 0#6
      · exact turn_of_writeCommand (by simpa [hn] using h)
      · exact .write n v (by simpa [hn, Fetched.outcome] using h.symm)
    | read n => exact .read n (by simpa [Fetched.outcome] using h.symm)
    | store a v => exact .store a v h
    | load a => exact .load a h
    | sequencer => exact turn_of_sequencerTurn h
    | perform k => exact .perform k (by simpa [Fetched.outcome] using h.symm)
    | reset => exact .reset (by simpa [Fetched.outcome] using h.symm)
    | laneSelect w => exact absurd (hev ▸ List.mem_cons_self) (hq w)
    | laneDrive u => exact .drive u (by simpa [Fetched.outcome] using h.symm)

/-! ### A step runs the decoded instruction -/

theorem State.sequencerTurn_busy {s : State} {i : Instr} (hb : s.status.busy = true)
    (hd : decode (.cmd s.last) = .ok i) : s.sequencerTurn = .run i s := by
  simp [State.sequencerTurn, hb, hd]

/-- The sequencer moves when nothing is queued (log entry 4). -/
theorem step_of_empty_queue {s : State} {i : Instr} (hq : s.events = []) (hb : s.status.busy = true)
    (hd : decode (.cmd s.last) = .ok i) : step s = exec i s := by
  simp [step, State.fetch, hq, State.sequencerTurn_busy hb hd]

theorem step_sequencer {s : State} {rest : List Event} {i : Instr} (h : s.events = .sequencer :: rest)
    (hb : s.status.busy = true) (hd : decode (.cmd s.last) = .ok i) : step s = exec i { s with events := rest } := by
  have hturn := State.sequencerTurn_busy (s := { s with events := rest }) hb hd
  simp [step, State.fetch, h, hturn]

theorem step_laneSelect {s : State} {w : BitVec 9} {rest : List Event} {i : Instr}
    (h : s.events = .laneSelect w :: rest) (hd : decode (.lop w) = .ok i) :
    step s = exec i { s with events := rest } := by
  simp [step, State.fetch, State.selectLane, h, hd]

/-- Settles O5, by the rule of each event that hands an instruction on. -/
theorem stepRunsDecodedInstruction : Obligations.StepRunsDecodedInstruction := by
  unfold Obligations.StepRunsDecodedInstruction
  exact ⟨fun s w rest i h hb hd => step_write_cmd_ok h hb hd, fun s rest i h hb hd => step_sequencer h hb hd,
    fun s i h hb hd => step_of_empty_queue h hb hd, fun s w rest i h hd => step_laneSelect h hd⟩

/-! ### Acceptance (R30) -/

/-- Settles O18: on an idle block both commands are `State.accept` of their word. -/
theorem planeCommandAccepted : Obligations.PlaneCommandAccepted := by
  unfold Obligations.PlaneCommandAccepted
  refine ⟨fun it st sc lw ro s w hb he => ?resample, fun lw ro s w hb he => ?hshift⟩
  case resample =>
    rw [encode_resampleInstr, Code.cmd.injEq] at he
    rw [exec_resampleInstr_idle it st sc lw ro hb, he, State.accept]
  case hshift =>
    rw [encode, Code.cmd.injEq] at he
    rw [exec_hshift_idle lw ro hb, he, State.accept]

/-- Settles O20: the two branches of `tapgen` on an idle block, the shape's exponents read in the registers. -/
theorem tapgenAcceptedOrRejected : Obligations.TapgenAcceptedOrRejected := by
  unfold Obligations.TapgenAcceptedOrRejected
  refine fun st sc s w hb he => ⟨fun hfin => ?finite, fun hinf => ?nonfinite⟩
  case finite =>
    rw [encode_tapgenInstr, Code.cmd.injEq] at he
    rw [exec_tapgenInstr_finite st sc hb ((finite_shape_iff s).mpr hfin), he, State.accept]
  case nonfinite =>
    rw [exec_tapgenInstr_nonfinite st sc hb ((finite_shape_eq_false_iff s).mpr hinf), State.raiseCfgErr,
      causeNonfinite]

/-- Completion with nothing pending and no race changes no memory and draws no free value (R259). -/
theorem State.complete_of_none_pending {s : State} (h : s.pending = []) :
    s.complete [] = { s with
      raced := []
      pos := { group := 0#16, col := 0#12 }
      status := { s.status with busy := false, done := true } } := by
  rw [State.complete_of_admitted s [] (by rw [h]; rfl), h]
  simp only [performStores, List.foldl_nil, spoil, List.length_nil, Nat.add_zero]

/-- Settles O19: acceptance and then completion, with nothing pending. -/
theorem nopCompletes : Obligations.NopCompletes := by
  unfold Obligations.NopCompletes
  intro s hb hp
  refine ⟨_, exec_nop_idle hb, ?state, ?irq⟩
  all_goals rw [State.complete_of_none_pending (s := s.accept _) hp]
  case state => simp only [State.accept, hb]; rfl
  case irq => simp [State.irq]

/-! ### CFGERR acknowledged and overwritten (R294, R299) -/

/-- Settles O8: the rule of each of the four writes. -/
theorem cfgErrAcknowledgedByHost : Obligations.CfgErrAcknowledgedByHost := by
  unfold Obligations.CfgErrAcknowledgedByHost
  refine ⟨fun s v rest h hv => ?ack, fun s w rest r h hb hc hd => ?again, fun s i w rest h hb hd hi => ?accepted,
    fun s w rest h hb => ?busy⟩
  case ack =>
    refine ⟨_, step_write_reg h (by decide), ?_⟩
    simp [State.writeReg_at_status, State.writeStatus, hv]
  case again =>
    refine ⟨_, step_write_cmd_error h hb hd, rfl, ?_, ?_, ?_⟩ <;> rintro rfl <;> rfl
  case accepted =>
    rw [step_write_cmd_ok h hb hd]
    obtain ⟨it, st, sc, lw, ro, rfl⟩ | ⟨lw, ro, rfl⟩ := hi
    · exact ⟨_, exec_resampleInstr_idle it st sc lw ro hb, rfl, rfl⟩
    · exact ⟨_, exec_hshift_idle lw ro hb, rfl, rfl⟩
  case busy => exact ⟨_, step_write_cmd_busy h hb, rfl, rfl⟩

/-! ### The state right after reset (R41) -/

/-- The reserved indices read 0 in every state (R20). -/
theorem State.readReg_reserved (s : State) {n : BitVec 6} (h : 24 ≤ n.toNat) : s.readReg n = 0#32 := by
  obtain ⟨k, hk⟩ := Nat.exists_eq_add_of_le' h
  rw [State.readReg, hk]
  rfl

/-- Settles O12: the fixed indices are evaluated, the reserved ones read 0 in every state. -/
theorem resetStateReads : Obligations.ResetStateReads := by
  unfold Obligations.ResetStateReads
  refine ⟨by decide, by decide, by decide, by decide, by decide, by decide, fun n => State.readReg_reserved _,
    by decide, by decide, rfl, rfl, rfl, fun n => ?unwritten⟩
  case unwritten =>
    simp only [State.reset, unspecifiedAtReset, List.mem_cons, List.not_mem_nil, or_false]
    omega

/-! ### The invariant of the software-visible machine -/

/-- Settles O43, clause by clause of the invariant. -/
theorem resetMeetsInvariant : Obligations.ResetMeetsInvariant where
  memory := wf_reset
  idle _ := ⟨rfl, rfl, rfl⟩
  last := rfl
  position h := absurd h (by decide)
  cause := by decide
  queue _ h := absurd h List.not_mem_nil

end Sys2Proof.Machine

/-!
PROOFS, the invariant: what each operation of a step keeps of it, the walk of POS inside its range, and the statement
on every step.
-/

namespace Sys2Proof.Machine

/-! ### A command word's two regimes, said once for all commands (R30, R256) -/

theorem exec_hshift_busy {s : State} (lw : LaneWidth) (ro : RowOrder) (hb : s.status.busy = true) :
    exec (.hshift lw ro) s = hshiftStep lw ro s := by
  simp [exec, execHshift, hb]

theorem exec_resampleInstr_busy {s : State} (it : IType) (st : Siting) (sc : Scan) (lw : LaneWidth) (ro : RowOrder)
    (hb : s.status.busy = true) :
    exec (resampleInstr it st sc lw ro) s = resampleStep (dispatch it st sc) lw ro s := by
  simp [exec_resampleInstr, resample, hb]

theorem exec_tapgenInstr_busy {s : State} (st : Siting) (sc : Scan) (hb : s.status.busy = true) :
    exec (tapgenInstr st sc) s = tapgenStep st sc s := by
  simp [exec_tapgenInstr, tapgen, hb]

theorem exec_nop_busy {s : State} (hb : s.status.busy = true) : exec .nop s = .next (s.complete []) := by
  simp [exec, execNop, hb]

/-- The next step of the command in progress. -/
theorem exec_busy_cases {s t : State} {i : Instr} (hd : decode (.cmd s.last) = .ok i) (hb : s.status.busy = true)
    (he : exec i s = .next t) :
    t = s.complete [] ∨
    (∃ it st sc lw ro, s.last = resampleWord it st sc lw ro ∧ resampleStep (dispatch it st sc) lw ro s = .next t) ∨
    (∃ lw ro, s.last = hshiftWord lw ro ∧ hshiftStep lw ro s = .next t) ∨
    (∃ st sc, s.last = tapgenWord st sc ∧ tapgenStep st sc s = .next t) := by
  obtain ⟨hw, rfl⟩ | ⟨it, st, sc, lw, ro, hw, rfl⟩ | ⟨lw, ro, hw, rfl⟩ | ⟨st, sc, hw, rfl⟩ := decode_cmd_ok_cases hd
  · rw [exec_nop_busy hb] at he
    exact .inl (by injection he with he; exact he.symm)
  · exact .inr (.inl ⟨it, st, sc, lw, ro, hw, exec_resampleInstr_busy it st sc lw ro hb ▸ he⟩)
  · exact .inr (.inr (.inl ⟨lw, ro, hw, exec_hshift_busy lw ro hb ▸ he⟩))
  · exact .inr (.inr (.inr ⟨st, sc, hw, exec_tapgenInstr_busy st sc hb ▸ he⟩))

/-- A command word presented to an idle block: acceptance, with completion in the same step for a NOP, or cause 4. -/
theorem exec_idle_cases {s t : State} {w : Word} {i : Instr} (hd : decode (.cmd w) = .ok i)
    (hb : s.status.busy = false) (he : exec i s = .next t) :
    t = (s.accept w).complete [] ∨ t = s.accept w ∨ t = s.raiseCfgErr causeNonfinite := by
  obtain ⟨rfl, rfl⟩ | ⟨it, st, sc, lw, ro, rfl, rfl⟩ | ⟨lw, ro, rfl, rfl⟩ | ⟨st, sc, rfl, rfl⟩ := decode_cmd_ok_cases hd
  · rw [exec_nop_idle hb] at he
    exact .inl (by injection he with he; exact he.symm)
  · rw [exec_resampleInstr_idle it st sc lw ro hb] at he
    exact .inr (.inl (by injection he with he; exact he.symm))
  · rw [exec_hshift_idle lw ro hb] at he
    exact .inr (.inl (by injection he with he; exact he.symm))
  · rw [exec_tapgenInstr] at he
    obtain ⟨hbusy, -⟩ | ⟨-, -, ht⟩ | ⟨-, -, ht⟩ := tapgen_cases st sc s
    · exact absurd hbusy (by simp [hb])
    · exact .inr (.inl (by rw [ht] at he; injection he with he; exact he.symm))
    · exact .inr (.inr (by rw [ht] at he; injection he with he; exact he.symm))

/-! ### What the preconditions give the walk of POS -/

theorem laneBytes_cases (lw : LaneWidth) : laneBytes lw = 16 ∨ laneBytes lw = 32 := by
  cases lw
  · exact .inl rfl
  · exact .inr rfl

theorem State.height_lt (s : State) : s.height < 2 ^ 16 := s.ops.height.isLt

theorem State.width_lt (s : State) : s.width < 2 ^ 16 := s.ops.width.isLt

theorem groupCount_le (sc : Scan) (h : Nat) : groupCount sc h ≤ h := by
  cases sc
  · exact le_rfl
  · exact Nat.div_le_self h 2

/-- P1: there is at least one column, and POS.COL can count them all (R27). -/
theorem columns_bounds {s : State} {lw : LaneWidth} {dst : View}
    (hp : brokenPrecondition (laneBytes lw) s.srcView dst = none) :
    1 ≤ s.width / laneBytes lw ∧ s.width / laneBytes lw < 2 ^ 12 := by
  obtain ⟨⟨hw, -⟩, -⟩ := (brokenPrecondition_none _ _ _).mp hp
  have hw' : laneBytes lw ≤ s.width := hw
  have hlt := s.width_lt
  obtain hl | hl := laneBytes_cases lw <;> rw [hl] at hw' ⊢ <;> omega

/-- POS stays in its range from one step to the next (R27, R258). -/
theorem Pos.next_inRange {p : Pos} {ng nc : Nat} (hg : p.group.toNat < ng) (hng : ng < 2 ^ 16) (hnc : 1 ≤ nc)
    (hnc' : nc < 2 ^ 12) (hc : p.col = 0#12 ∨ p.col.toNat < nc) :
    (p.next nc).group.toNat ≤ ng ∧ ((p.next nc).col = 0#12 ∨ (p.next nc).col.toNat < nc) := by
  have hcol : p.col.toNat < nc := hc.elim (fun h0 => by rw [h0]; exact hnc) id
  obtain ⟨-, hnext⟩ | ⟨hmore, hnext⟩ := Pos.next_cases p nc <;> rw [hnext]
  · refine ⟨?_, .inl rfl⟩
    simp only [BitVec.toNat_add, BitVec.toNat_ofNat]
    omega
  · refine ⟨hg.le, .inr ?_⟩
    simp only [BitVec.toNat_add, BitVec.toNat_ofNat]
    omega

/-! ### What keeps the invariant -/

theorem State.Inv.afterFetch {s : State} (h : s.Inv) : s.afterFetch.Inv where
  memory := h.memory
  idle := h.idle
  last := h.last
  position := h.position
  cause := h.cause
  queue w hw := h.queue w (List.mem_of_mem_tail hw)

theorem State.Inv.complete {s : State} (h : s.Inv) (xs : List Word) : (s.complete xs).Inv := by
  obtain ⟨-, hs⟩ | ⟨-, hs⟩ := complete_cases s xs <;> rw [hs]
  · exact { memory := wf_spoil xs _ _ (wf_performStores _ _ h.memory)
            idle := fun _ => ⟨rfl, rfl, rfl⟩
            last := h.last
            position := fun hb => absurd hb Bool.false_ne_true
            cause := h.cause
            queue := h.queue }
  · exact h

theorem State.Inv.accept {s : State} (h : s.Inv) {w : Word} {i : Instr} (hd : decode (.cmd w) = .ok i) :
    (s.accept w).Inv where
  memory := h.memory
  idle hb := absurd hb Bool.true_eq_false.mp
  last := by rw [State.lastLegal, State.accept_last, hd]; rfl
  position _ := ⟨Nat.zero_le _, .inl rfl⟩
  cause := h.cause
  queue := h.queue

theorem State.Inv.raiseCfgErr {s : State} (h : s.Inv) {c : BitVec 4} (hc : c.toNat ≤ 4) : (s.raiseCfgErr c).Inv where
  memory := h.memory
  idle := h.idle
  last := h.last
  position := h.position
  cause := hc
  queue := h.queue

theorem rejectCause_le (r : Reject) : (rejectCause r).toNat ≤ 4 := by cases r <;> decide

/-- One group of one column issued while groups remain, whatever joins PENDING and CARRY (R258). -/
theorem State.Inv.advance {s : State} (h : s.Inv) (hb : s.status.busy = true) (hg : s.pos.group.toNat < s.groups)
    (hng : s.groups < 2 ^ 16) {nc : Nat} (hnc : s.columns = nc) (hnc1 : 1 ≤ nc) (hnc2 : nc < 2 ^ 12)
    (stores : List LaneStore) (cy : Byte) :
    State.Inv { s.issue stores with carry := cy, pos := s.pos.next nc } where
  memory := h.memory
  idle hidle := absurd (hb.symm.trans hidle) Bool.true_eq_false.mp
  last := h.last
  position _ := by
    obtain ⟨-, hc⟩ := h.position hb
    subst hnc
    exact Pos.next_inRange hg hng hnc1 hnc2 hc
  cause := h.cause
  queue := h.queue

theorem State.Inv.resampleStep {s t : State} (h : s.Inv) (hb : s.status.busy = true) {it : IType} {st : Siting}
    {sc : Scan} {lw : LaneWidth} {ro : RowOrder} (hw : s.last = resampleWord it st sc lw ro)
    (ht : resampleStep (dispatch it st sc) lw ro s = .next t) : t.Inv := by
  obtain ⟨hp, ⟨hg, -, rfl⟩ | ⟨-, -, rfl⟩ | ⟨-, rfl⟩⟩ := resampleStep_cases _ _ _ _ _ ht
  · obtain ⟨h1, h2⟩ := columns_bounds hp
    rw [← State.groups_of_resample hw] at hg
    have hng : s.groups < 2 ^ 16 := by
      rw [State.groups_of_resample hw]; exact (groupCount_le _ _).trans_lt s.height_lt
    exact h.advance hb hg hng (State.columns_of_resample hw) h1 h2 _ s.carry
  · exact h
  · exact h.complete _

theorem State.Inv.hshiftStep {s t : State} (h : s.Inv) (hb : s.status.busy = true) {lw : LaneWidth} {ro : RowOrder}
    (hw : s.last = hshiftWord lw ro) (ht : hshiftStep lw ro s = .next t) : t.Inv := by
  obtain ⟨hp, ⟨hg, -, rfl⟩ | ⟨-, -, rfl⟩ | ⟨-, rfl⟩⟩ := hshiftStep_cases _ _ _ _ ht
  · obtain ⟨h1, h2⟩ := columns_bounds hp
    rw [← State.groups_of_hshift hw] at hg
    have hng : s.groups < 2 ^ 16 := by rw [State.groups_of_hshift hw]; exact s.height_lt
    exact h.advance hb hg hng (State.columns_of_hshift hw) h1 h2 _ _
  · exact h
  · exact h.complete _

theorem State.Inv.tapgenStep {s t : State} (h : s.Inv) {st : Siting} {sc : Scan}
    (ht : tapgenStep st sc s = .next t) : t.Inv := by
  injection ht with ht
  subst ht
  refine State.Inv.complete ?_ []
  exact ⟨h.memory, h.idle, h.last, h.position, h.cause, h.queue⟩

/-- A data register is written only on an idle block, where POS is 0 (R40). -/
theorem State.Inv.writeReg {s : State} (h : s.Inv) (n : BitVec 6) (v : Word) : (s.writeReg n v).Inv := by
  by_cases h1 : n = 1#6
  · rw [h1, State.writeReg_at_status]
    exact ⟨h.memory, h.idle, h.last, h.position, h.cause, h.queue⟩
  by_cases h2 : n = 2#6
  · rw [h2, State.writeReg_at_ctrl]
    exact ⟨h.memory, h.idle, h.last, h.position, h.cause, h.queue⟩
  cases hb : s.status.busy with
  | true => rwa [State.writeReg_busy s n v h1 h2 hb]
  | false =>
    rw [State.writeReg_data s n v h1 h2 hb]
    exact { memory := by simpa using h.memory
            idle := by simpa [State.quietWhenIdle] using h.idle
            last := by simpa [State.lastLegal] using h.last
            position := fun hbusy => by simp [hb] at hbusy
            cause := by simpa using h.cause
            queue := by simpa [State.softwareOnly] using h.queue }

/-- No byte is in use by an idle block, so it notes no race (R86). -/
theorem State.inUse_idle {s : State} (hb : s.status.busy = false) (a : Word) : s.inUse a = false := by
  simp [State.inUse, State.planesInUse, hb]

theorem State.Inv.hostStore {s t : State} (h : s.Inv) {a : Word} {v : Byte} (ht : s.hostStore a v = .next t) :
    t.Inv := by
  obtain ⟨-, hs⟩ | ⟨-, hs⟩ := hostStore_cases s a v <;> rw [hs] at ht
  · injection ht with ht
    subst ht
    exact { memory := wf_writeByte _ a v h.memory
            idle := fun hb => by simpa [State.inUse_idle (s := s) hb] using h.idle hb
            last := h.last
            position := h.position
            cause := h.cause
            queue := h.queue }
  · cases ht

theorem State.Inv.hostLoad {s t : State} (h : s.Inv) {a : Word} (ht : s.hostLoad a = .next t) : t.Inv := by
  obtain ⟨-, ht⟩ := hostLoad_cases s t a ht
  rw [ht]
  exact ⟨h.memory, h.idle, h.last, h.position, h.cause, h.queue⟩

theorem State.Inv.performOne {s : State} (h : s.Inv) (k : Nat) : (s.performOne k).Inv := by
  obtain ⟨st, -, -, hs⟩ | hs := performOne_cases s k <;> rw [hs]
  · refine { memory := wf_writeLane _ _ _ h.memory, idle := fun hb => ?_, last := h.last, position := h.position,
             cause := h.cause, queue := h.queue }
    obtain ⟨hpos, hpending, hraced⟩ := h.idle hb
    exact ⟨hpos, by rw [hpending]; rfl, hraced⟩
  · exact h

theorem State.Inv.hardReset {s : State} (h : s.Inv) (xs : List Word) : (s.hardReset xs).Inv where
  memory := wf_spoil _ _ _ (wf_performStores _ _ h.memory)
  idle _ := ⟨rfl, rfl, rfl⟩
  last := by rw [State.lastLegal, State.hardReset_last]; rfl
  position hb := absurd hb Bool.false_ne_true
  cause := by simp
  queue := h.queue

/-- Every agent's turn keeps the invariant. -/
theorem Turn.keeps_inv {u t : State} (h : u.Inv) (ht : Turn u t) : t.Inv := by
  cases ht with
  | rest _ ht => rwa [ht]
  | sequencer i hb hd he =>
    obtain rfl | ⟨it, st, sc, lw, ro, hw, he⟩ | ⟨lw, ro, hw, he⟩ | ⟨st, sc, -, he⟩ := exec_busy_cases hd hb he
    · exact h.complete []
    · exact h.resampleStep hb hw he
    · exact h.hshiftStep hb hw he
    · exact h.tapgenStep he
  | command w i hb hd he =>
    obtain rfl | rfl | rfl := exec_idle_cases hd hb he
    · exact (h.accept hd).complete []
    · exact h.accept hd
    · exact h.raiseCfgErr (by decide)
  | overrun _ ht => exact ht ▸ ⟨h.memory, h.idle, h.last, h.position, h.cause, h.queue⟩
  | reject r _ ht => exact ht ▸ h.raiseCfgErr (rejectCause_le r)
  | write n v ht => exact ht ▸ h.writeReg n v
  | read n ht => exact ht ▸ ⟨h.memory, h.idle, h.last, h.position, h.cause, h.queue⟩
  | store a v ht => exact h.hostStore ht
  | load a ht => exact h.hostLoad ht
  | perform k ht => exact ht ▸ h.performOne k
  | reset ht => exact ht ▸ h.hardReset _
  | drive ports ht => exact ht ▸ ⟨h.memory, h.idle, h.last, h.position, h.cause, h.queue⟩

/-- Settles O42: a step is one agent's turn, and each turn keeps the invariant. -/
theorem stepKeepsInvariant : Obligations.StepKeepsInvariant :=
  fun _ _ h ht => (step_turn h.queue ht).keeps_inv h.afterFetch

end Sys2Proof.Machine

/-!
PROOFS, lanes as maps over one list of places: every operation of a composite works place by place, and the statement
on MAC4.
-/

namespace Sys2Proof.Machine

/-! ### Averages (R152, R153) -/

theorem avg2Elem_eq (a b : Byte) : avg2Elem a b = BitVec.ofNat 8 ((a.toNat + b.toNat + 1) / 2) := by
  rw [avg2Elem, Nat.shiftRight_eq_div_pow]

theorem xor_mod_two (x y : Nat) : (x ^^^ y) % 2 = 1 ↔ (x + y) % 2 = 1 := by
  rw [Nat.xor_mod_two_eq_one]
  obtain hx | hx := Nat.mod_two_eq_zero_or_one x <;> obtain hy | hy := Nat.mod_two_eq_zero_or_one y <;>
    simp [Nat.add_mod, hx, hy]

/-- The correction of AVG4 is 1 where the two-stage average rounded up once too often. -/
theorem avg4Fix_eq (a b c d p q : Nat) :
    avg4Fix a b c d p q = if ((a + b) % 2 = 1 ∨ (c + d) % 2 = 1) ∧ (p + q) % 2 = 1 then 1 else 0 := by
  have hodd : avg4Fix a b c d p q % 2 = 1 ↔ ((a + b) % 2 = 1 ∨ (c + d) % 2 = 1) ∧ (p + q) % 2 = 1 := by
    simp only [avg4Fix, Nat.and_mod_two_eq_one, Nat.or_mod_two_eq_one, xor_mod_two, Nat.reduceMod, and_true]
  have hlt : avg4Fix a b c d p q < 2 := by
    rw [avg4Fix, Nat.and_one_is_mod]
    exact Nat.mod_lt _ (by decide)
  split_ifs with h
  · have := hodd.mpr h; omega
  · have := mt hodd.mp h; omega

/-- The two-stage average less its correction is the rounded mean of four. -/
theorem avg4Elem_eq (a b c d : Byte) :
    avg4Elem a b c d = BitVec.ofNat 8 ((a.toNat + b.toNat + c.toNat + d.toNat + 2) / 4) := by
  simp only [avg4Elem, avg4Fix_eq, Nat.shiftRight_eq_div_pow, Nat.pow_one]
  congr 1
  split_ifs <;> omega

/-! ### Operations on lanes that are maps over one list -/

section Places

variable {ι : Type} (X : List ι)

theorem avg2_map (a b : ι → Byte) :
    avg2 (X.map a) (X.map b) = X.map fun i => BitVec.ofNat 8 (((a i).toNat + (b i).toNat + 1) / 2) := by
  simp only [avg2, List.zipWith_map, List.zipWith_self, avg2Elem_eq]

theorem avg4_map (a b c d : ι → Byte) :
    avg4 (X.map a) (X.map b) (X.map c) (X.map d) =
      X.map fun i => BitVec.ofNat 8 (((a i).toNat + (b i).toNat + (c i).toNat + (d i).toNat + 2) / 4) := by
  unfold avg4
  induction X with
  | nil => rfl
  | cons x X ih => simp only [List.map_cons, map4, ih, avg4Elem_eq]

/-- The blend 3:1 as an AVG4 of three equal rows (R190, R283). -/
theorem avg4_map_three_one (a b : ι → Byte) :
    avg4 (X.map a) (X.map a) (X.map a) (X.map b) =
      X.map fun i => BitVec.ofNat 8 ((3 * (a i).toNat + (b i).toNat + 2) / 4) := by
  rw [avg4_map]
  refine List.map_congr_left fun i _ => ?_
  congr 2
  omega

theorem blend_map {w0 w1 sh : Nat} (hsh : 0 < sh) (hsh' : sh < 15) (hw0 : 0 < w0) (hw1 : 0 < w1)
    (hw : w0 + w1 = 2 ^ sh) (h4 : X.length % 4 = 0) (a b : ι → Byte) :
    blend (BitVec.ofNat 16 w0) (BitVec.ofNat 16 w1) sh (X.map a) (X.map b) =
      X.map fun i => BitVec.ofNat 8 (blendOf w0 w1 sh (a i).toNat (b i).toNat) := by
  rw [blend_eq_blendOf hsh hsh' hw0 hw1 hw (by simpa using h4) (by simp), List.zipWith_map, List.zipWith_self]

theorem widenLo_map (a : ι → Byte) :
    widenLo (X.map a) = (X.take (X.length / 2)).map fun i => (a i).setWidth 16 := by
  simp only [widenLo, List.length_map, ← List.map_take, List.map_map]
  rfl

theorem widenHi_map (a : ι → Byte) :
    widenHi (X.map a) = (X.drop (X.length / 2)).map fun i => (a i).setWidth 16 := by
  simp only [widenHi, List.length_map, ← List.map_drop, List.map_map]
  rfl

theorem add32_map (u v : ι → Word) : add32 (X.map u) (X.map v) = X.map fun i => u i + v i := by
  rw [add32, List.zipWith_map, List.zipWith_self]

/-- One group of four rows of MAC4, before rounding, shifting and packing. -/
theorem madd_pair_map {l : Nat} (hX : X.length = l / 4) (p q : ι → Half) (k0 k1 : Half) :
    madd (interleave (X.map p) (X.map q)) (bcast l k0 k1) = X.map fun i => maddElem (p i) (q i) k0 k1 := by
  rw [madd_interleave_bcast (by simpa using hX), List.zipWith_map, List.zipWith_self]

end Places

/-! ### Saturation (R162, R163) -/

theorem sat16_toInt (v : Word) : (sat16 v).toInt = clampInt v.toInt (-32768) 32767 := by
  rw [sat16, BitVec.toInt_ofInt_eq_self (by decide)] <;> rw [clampInt] <;> omega

/-- The two saturating packs in a row clamp to a sample. -/
theorem satu8_sat16 (v : Word) : satu8 (sat16 v) = BitVec.ofInt 8 (clampInt v.toInt 0 255) := by
  rw [satu8, sat16_toInt]
  congr 1
  simp only [clampInt]
  omega

/-- A clamped number as a sample, written with natural numbers (R8). -/
theorem ofInt_clampInt (v : Int) : BitVec.ofInt 8 (clampInt v 0 255) = BitVec.ofNat 8 (clampByte v) := by
  have hcast : clampInt v 0 255 = ((clampByte v : Nat) : Int) := by
    simp only [clampByte, clampInt]; omega
  rw [hcast, BitVec.ofInt_natCast]

/-! ### R168 -/

/-- The work of MAC4 on one interleaved group of each pair of rows, for lanes of `l` bytes. -/
def mac4Group (q0 q1 q2 q3 : Half) (l : Nat) (u v : HalfLane) : WordLane :=
  sra32 (add32 (add32 (madd u (bcast l q0 q1)) (madd v (bcast l q2 q3))) (rereadWords (bcast l 512#16 0#16))) 10

theorem mac4_eq_byHalves (q0 q1 q2 q3 : Half) (r0 r1 r2 r3 : ByteLane) :
    mac4 q0 q1 q2 q3 r0 r1 r2 r3 = byHalves fun widen ilv =>
      mac4Group q0 q1 q2 q3 r0.length (ilv (widen r0) (widen r1)) (ilv (widen r2) (widen r3)) := rfl

/-- One word of MAC4 before it is packed. -/
def mac4Word (q0 q1 q2 q3 a b c d : Half) : Word :=
  (maddElem a b q0 q1 + maddElem c d q2 q3 + 512#32).sshiftRight 10

section Mac4

variable {ι : Type} (q0 q1 q2 q3 : Half)

theorem mac4Group_map {X : List ι} {l : Nat} (hX : X.length = l / 4) (a b c d : ι → Half) :
    mac4Group q0 q1 q2 q3 l (interleave (X.map a) (X.map b)) (interleave (X.map c) (X.map d)) =
      X.map fun i => mac4Word q0 q1 q2 q3 (a i) (b i) (c i) (d i) := by
  rw [mac4Group, madd_pair_map X hX, madd_pair_map X hX, add32_map, rereadWords_bcast,
    add32_replicate (by simpa using hX), sra32, List.map_map, List.map_map]
  rfl

/-- One half of MAC4: its two groups packed. -/
theorem packs32_mac4Group {X : List ι} {l : Nat} (hl : l % 4 = 0) (hX : X.length = l / 2) (a b c d : ι → Half) :
    packs32 (mac4Group q0 q1 q2 q3 l (ilv16Lo (X.map a) (X.map b)) (ilv16Lo (X.map c) (X.map d)))
        (mac4Group q0 q1 q2 q3 l (ilv16Hi (X.map a) (X.map b)) (ilv16Hi (X.map c) (X.map d))) =
      X.map fun i => sat16 (mac4Word q0 q1 q2 q3 (a i) (b i) (c i) (d i)) := by
  simp only [ilv16Lo, ilv16Hi, List.length_map, ← List.map_take, ← List.map_drop]
  rw [mac4Group_map q0 q1 q2 q3 (by rw [List.length_take]; omega),
    mac4Group_map q0 q1 q2 q3 (by rw [List.length_drop]; omega), packs32, List.map_map, List.map_map,
    ← List.map_append, List.take_append_drop]
  rfl

theorem mac4_map_words {X : List ι} (h4 : X.length % 4 = 0) (a b c d : ι → Byte) :
    mac4 q0 q1 q2 q3 (X.map a) (X.map b) (X.map c) (X.map d) =
      X.map fun i => satu8 (sat16 (mac4Word q0 q1 q2 q3 ((a i).setWidth 16) ((b i).setWidth 16) ((c i).setWidth 16)
        ((d i).setWidth 16))) := by
  rw [mac4_eq_byHalves, byHalves, List.length_map]
  simp only [widenLo_map, widenHi_map]
  rw [packs32_mac4Group q0 q1 q2 q3 h4 (by rw [List.length_take]; omega),
    packs32_mac4Group q0 q1 q2 q3 h4 (by rw [List.length_drop]; omega), packus16, List.map_map, List.map_map,
    ← List.map_append, List.take_append_drop]
  rfl

end Mac4

theorem toInt_half_bounds (q : Half) : -32768 ≤ q.toInt ∧ q.toInt ≤ 32767 := by
  have hlo := BitVec.le_toInt q
  have hhi := BitVec.toInt_lt (x := q)
  omega

/-- A coefficient times a sample. -/
theorem product_bounds (q : Half) (x : Byte) :
    -8355840 ≤ q.toInt * (x.toNat : Int) ∧ q.toInt * (x.toNat : Int) ≤ 8355585 := by
  obtain ⟨hlo, hhi⟩ := toInt_half_bounds q
  have hx0 : (0 : Int) ≤ x.toNat := Int.natCast_nonneg _
  have hx1 : (x.toNat : Int) ≤ 255 := by omega
  constructor <;> nlinarith

/-- The sum of a word of MAC4 fits 32 bits, so nothing wraps before the shift. -/
theorem mac4Word_toInt (q0 q1 q2 q3 : Half) (a b c d : Byte) :
    (mac4Word q0 q1 q2 q3 (a.setWidth 16) (b.setWidth 16) (c.setWidth 16) (d.setWidth 16)).toInt =
      (q0.toInt * a.toNat + q1.toInt * b.toNat + q2.toInt * c.toNat + q3.toInt * d.toNat + 512) / 1024 := by
  have ha := product_bounds q0 a
  have hb := product_bounds q1 b
  have hc := product_bounds q2 c
  have hd := product_bounds q3 d
  have hsum : maddElem (a.setWidth 16) (b.setWidth 16) q0 q1 + maddElem (c.setWidth 16) (d.setWidth 16) q2 q3 + 512#32 =
      BitVec.ofInt 32
        (q0.toInt * a.toNat + q1.toInt * b.toNat + q2.toInt * c.toNat + q3.toInt * d.toNat + 512) := by
    simp only [maddElem, toInt_setWidth_sample]
    rw [show (512#32 : Word) = BitVec.ofInt 32 512 from rfl, ← BitVec.ofInt_add, ← BitVec.ofInt_add]
    congr 1
    ring
  rw [mac4Word, hsum, BitVec.toInt_sshiftRight, BitVec.toInt_ofInt_eq_self (by decide) (by omega) (by omega),
    Int.shiftRight_eq_div_pow]
  rfl

/-- MAC4 is the four-tap sum place by place. -/
theorem mac4_map {ι : Type} (q0 q1 q2 q3 : Half) {X : List ι} (h4 : X.length % 4 = 0) (a b c d : ι → Byte) :
    mac4 q0 q1 q2 q3 (X.map a) (X.map b) (X.map c) (X.map d) =
      X.map fun i => BitVec.ofNat 8 (tapSum q0 q1 q2 q3 (a i).toNat (b i).toNat (c i).toNat (d i).toNat) := by
  simp only [mac4_map_words q0 q1 q2 q3 h4, satu8_sat16, mac4Word_toInt, ofInt_clampInt, tapSum]

/-- The symmetry shortcut place by place (R215). -/
theorem macsym_map {ι : Type} (c0 c1 : Half) {X : List ι} (hX : X.length = 16 ∨ X.length = 32) (a b c d : ι → Byte) :
    macsym c0 c1 (X.map a) (X.map b) (X.map c) (X.map d) =
      X.map fun i => BitVec.ofNat 8 (tapSum c1 c0 c0 c1 (a i).toNat (b i).toNat (c i).toNat (d i).toNat) := by
  rw [symmetryShortcutEquivalence c0 c1 _ _ _ _ (by simpa using hX) (by simp) (by simp) (by simp),
    mac4_map c1 c0 c0 c1 (by omega)]

/-- A lane is the map of its elements over its places. -/
theorem lane_eq_map_range {r : ByteLane} {l : Nat} (h : r.length = l) :
    r = (List.range l).map fun i => r.getD i 0#8 := by
  apply List.ext_getElem
  case hl => simp [h]
  case h =>
    intro i hi _
    simp [hi]

/-- Settles O52: each row is a map over its places, and there MAC4 is the four-tap sum place by place. -/
theorem multiplyAccumulateFormula : Obligations.MultiplyAccumulateFormula := by
  unfold Obligations.MultiplyAccumulateFormula
  intro q0 q1 q2 q3 r0 r1 r2 r3 hl h1 h2 h3
  conv_lhs => rw [lane_eq_map_range (r := r0) rfl, lane_eq_map_range h1, lane_eq_map_range h2, lane_eq_map_range h3]
  rw [mac4_map q0 q1 q2 q3 (by rw [List.length_range]; omega)]
  simp only [tapSum, ← ofInt_clampInt, clampInt]

end Sys2Proof.Machine

/-!
PROOFS, the row kernels: the rows a group writes, the clamped indices, each kernel's rows written out per sample, and
the statements on what a group reads and writes.
-/

namespace Sys2Proof.Machine

/-! ### The rows a group writes (R181) -/

/-- The destination rows of a group, in the order of a kernel's rule. -/
def Kernel.rows (K : Kernel) (g : Nat) : List Nat :=
  match K.scan with
  | .progressive => [2 * g, 2 * g + 1]
  | .interlaced => [4 * g, 4 * g + 1, 4 * g + 2, 4 * g + 3]

theorem outputs_rows (K : Kernel) (h g : Nat) (C : Coefs) (S : Nat → ByteLane) :
    (K.outputs h g C S).map Prod.fst = K.rows g := by
  cases K <;> rfl

theorem groupCount_eq_ite (sc : Scan) (h : Nat) : groupCount sc h = if sc = .progressive then h else h / 2 := by
  cases sc <;> rfl

theorem mem_rows_lt {K : Kernel} {h g j : Nat} (hg : g < groupCount K.scan h) (hj : j ∈ K.rows g) : j < 2 * h := by
  unfold Kernel.rows at hj
  cases hK : K.scan <;> simp only [hK, groupCount, List.mem_cons, List.not_mem_nil, or_false] at hg hj <;> omega

theorem flatMap_pairs (n : Nat) : ((List.range n).flatMap fun g => [2 * g, 2 * g + 1]) = List.range (2 * n) := by
  induction n with
  | zero => rfl
  | succ n ih => rw [List.range_succ, List.flatMap_append, ih, Nat.mul_succ, List.range_succ, List.range_succ]; simp

theorem flatMap_quadruples (n : Nat) :
    ((List.range n).flatMap fun g => [4 * g, 4 * g + 1, 4 * g + 2, 4 * g + 3]) = List.range (4 * n) := by
  induction n with
  | zero => rfl
  | succ n ih =>
    rw [List.range_succ, List.flatMap_append, ih, Nat.mul_succ, List.range_succ, List.range_succ, List.range_succ,
      List.range_succ]
    simp

/-- The rows of all groups in order are the rows of the destination, each once. -/
theorem flatMap_rows (K : Kernel) {h : Nat} (h4 : h % 4 = 0) :
    (List.range (groupCount K.scan h)).flatMap K.rows = List.range (2 * h) := by
  unfold Kernel.rows
  cases hK : K.scan with
  | progressive => exact flatMap_pairs h
  | interlaced =>
    rw [show 2 * h = 4 * (h / 2) by omega]
    exact flatMap_quadruples (h / 2)

/-- Settles O55: which rows a group writes depends on the scan only. -/
theorem everyDestinationRowOnce : Obligations.EveryDestinationRowOnce := by
  unfold Obligations.EveryDestinationRowOnce
  intro K h C S h4
  simp only [outputs_rows, ← groupCount_eq_ite]
  exact flatMap_rows K h4

/-! ### The group and the field of a row -/

theorem row_of_pair (g : Nat) : 2 * g / 2 = g ∧ 2 * g % 2 = 0 ∧ (2 * g + 1) / 2 = g ∧ (2 * g + 1) % 2 = 1 := by omega

theorem row_of_quadruple (g : Nat) :
    (4 * g / 4 = g ∧ (4 * g + 1) / 4 = g ∧ (4 * g + 2) / 4 = g ∧ (4 * g + 3) / 4 = g) ∧
    (4 * g % 4 = 0 ∧ (4 * g + 1) % 4 = 1 ∧ (4 * g + 2) % 4 = 2 ∧ (4 * g + 3) % 4 = 3) ∧
    (4 * g % 2 = 0 ∧ (4 * g + 1) % 2 = 1 ∧ (4 * g + 2) % 2 = 0 ∧ (4 * g + 3) % 2 = 1) := by omega

/-! ### Clamped indices of a group inside the plane (R182, R183) -/

theorem clampP_lt {h : Nat} (hh : 0 < h) (i : Int) : clampP h i < h := by
  simp only [clampP]; omega

theorem fieldRow_lt {h f : Nat} (hh : 4 ≤ h) (h4 : h % 4 = 0) (hf : f < 2) (k : Int) : fieldRow h f k < h := by
  simp only [fieldRow, clampF]; omega

section Progressive

variable {h g : Nat} (hg : g < h)

include hg

theorem clampP_self : clampP h (g : Int) = g := by simp only [clampP]; omega

theorem clampP_sub_one : clampP h ((g : Int) - 1) = g - 1 := by simp only [clampP]; omega

theorem clampP_sub_two : clampP h ((g : Int) - 2) = g - 2 := by simp only [clampP]; omega

theorem clampP_add_one : clampP h ((g : Int) + 1) = min (g + 1) (h - 1) := by simp only [clampP]; omega

theorem clampP_add_two : clampP h ((g : Int) + 2) = min (g + 2) (h - 1) := by simp only [clampP]; omega

end Progressive

section Interlaced

variable {h g : Nat} (hg : g < h / 2) (f : Nat)

include hg

theorem clampP_bottom : clampP h (2 * (g : Int) + 1) = 2 * g + 1 := by simp only [clampP]; omega

theorem clampP_next_top : clampP h (2 * (g : Int) + 2) = min (2 * g + 2) (h - 1) := by simp only [clampP]; omega

theorem fieldRow_self : fieldRow h f (g : Int) = 2 * g + f := by simp only [fieldRow, clampF]; omega

theorem fieldRow_sub_one : fieldRow h f ((g : Int) - 1) = 2 * (g - 1) + f := by simp only [fieldRow, clampF]; omega

theorem fieldRow_sub_two : fieldRow h f ((g : Int) - 2) = 2 * (g - 2) + f := by simp only [fieldRow, clampF]; omega

theorem fieldRow_add_one : fieldRow h f ((g : Int) + 1) = 2 * min (g + 1) (h / 2 - 1) + f := by
  simp only [fieldRow, clampF]; omega

theorem fieldRow_add_two : fieldRow h f ((g : Int) + 2) = 2 * min (g + 2) (h / 2 - 1) + f := by
  simp only [fieldRow, clampF]; omega

end Interlaced

/-! ### The rows of a group per sample, kernel by kernel (R185 to R191, R211 to R214) -/

/-- The rows of a group and the samples of each, `S r x` being sample x of source row r. -/
def Kernel.rowSamples (K : Kernel) (h : Nat) (C : Coefs) (S : Nat → Nat → Nat) (g : Nat) : List (Nat × (Nat → Nat)) :=
  (K.rows g).map fun j => (j, fun x => K.sampleOf h C (fun r => S r x) j)

section RowSamples

variable (h g : Nat) (C : Coefs) (S : Nat → Nat → Nat)

theorem rowSamples_ptP : Kernel.ptP.rowSamples h C S g = [(2 * g, fun x => S g x), (2 * g + 1, fun x => S g x)] := by
  simp [Kernel.rowSamples, Kernel.rows, Kernel.scan, Kernel.sampleOf, row_of_pair]

theorem rowSamples_ptI : Kernel.ptI.rowSamples h C S g =
    [(4 * g, fun x => S (2 * g) x), (4 * g + 1, fun x => S (2 * g + 1) x), (4 * g + 2, fun x => S (2 * g) x),
      (4 * g + 3, fun x => S (2 * g + 1) x)] := by
  simp [Kernel.rowSamples, Kernel.rows, Kernel.scan, Kernel.sampleOf, row_of_quadruple]

theorem rowSamples_linHalfP : Kernel.linHalfP.rowSamples h C S g =
    [(2 * g, fun x => S g x), (2 * g + 1, fun x => (S g x + S (min (g + 1) (h - 1)) x + 1) / 2)] := by
  simp [Kernel.rowSamples, Kernel.rows, Kernel.scan, Kernel.sampleOf, row_of_pair]

theorem rowSamples_linHalfI : Kernel.linHalfI.rowSamples h C S g =
    [(4 * g, fun x => S (2 * g) x), (4 * g + 1, fun x => S (2 * g + 1) x),
      (4 * g + 2, fun x => (S (2 * g) x + S (2 * min (g + 1) (h / 2 - 1)) x + 1) / 2),
      (4 * g + 3, fun x => (S (2 * g + 1) x + S (2 * min (g + 1) (h / 2 - 1) + 1) x + 1) / 2)] := by
  simp [Kernel.rowSamples, Kernel.rows, Kernel.scan, Kernel.sampleOf, row_of_quadruple]

theorem rowSamples_linXfI : Kernel.linXfI.rowSamples h C S g =
    [(4 * g, fun x => S (2 * g) x), (4 * g + 1, fun x => S (2 * g + 1) x),
      (4 * g + 2, fun x => blendOf 171 85 8 (S (2 * g + 1) x) (S (min (2 * g + 2) (h - 1)) x)),
      (4 * g + 3, fun x => blendOf 85 171 8 (S (2 * g + 1) x) (S (min (2 * g + 2) (h - 1)) x))] := by
  simp [Kernel.rowSamples, Kernel.rows, Kernel.scan, Kernel.sampleOf, row_of_quadruple]

theorem rowSamples_linQP : Kernel.linQP.rowSamples h C S g =
    [(2 * g, fun x => (3 * S g x + S (g - 1) x + 2) / 4),
      (2 * g + 1, fun x => (3 * S g x + S (min (g + 1) (h - 1)) x + 2) / 4)] := by
  simp [Kernel.rowSamples, Kernel.rows, Kernel.scan, Kernel.sampleOf, row_of_pair]

theorem rowSamples_linEI : Kernel.linEI.rowSamples h C S g =
    [(4 * g, fun x => blendOf 7 1 3 (S (2 * g) x) (S (2 * (g - 1)) x)),
      (4 * g + 1, fun x => blendOf 5 3 3 (S (2 * g + 1) x) (S (2 * (g - 1) + 1) x)),
      (4 * g + 2, fun x => blendOf 5 3 3 (S (2 * g) x) (S (2 * min (g + 1) (h / 2 - 1)) x)),
      (4 * g + 3, fun x => blendOf 7 1 3 (S (2 * g + 1) x) (S (2 * min (g + 1) (h / 2 - 1) + 1) x))] := by
  simp [Kernel.rowSamples, Kernel.rows, Kernel.scan, Kernel.sampleOf, row_of_quadruple]

theorem rowSamples_cubSymP : Kernel.cubSymP.rowSamples h C S g =
    [(2 * g, fun x => S g x),
      (2 * g + 1, fun x => tapSum C.c1 C.c0 C.c0 C.c1 (S (g - 1) x) (S g x) (S (min (g + 1) (h - 1)) x)
        (S (min (g + 2) (h - 1)) x))] := by
  simp [Kernel.rowSamples, Kernel.rows, Kernel.scan, Kernel.sampleOf, row_of_pair]

theorem rowSamples_cubSymI : Kernel.cubSymI.rowSamples h C S g =
    [(4 * g, fun x => S (2 * g) x), (4 * g + 1, fun x => S (2 * g + 1) x),
      (4 * g + 2, fun x => tapSum C.c1 C.c0 C.c0 C.c1 (S (2 * (g - 1)) x) (S (2 * g) x)
        (S (2 * min (g + 1) (h / 2 - 1)) x) (S (2 * min (g + 2) (h / 2 - 1)) x)),
      (4 * g + 3, fun x => tapSum C.c1 C.c0 C.c0 C.c1 (S (2 * (g - 1) + 1) x) (S (2 * g + 1) x)
        (S (2 * min (g + 1) (h / 2 - 1) + 1) x) (S (2 * min (g + 2) (h / 2 - 1) + 1) x))] := by
  simp [Kernel.rowSamples, Kernel.rows, Kernel.scan, Kernel.sampleOf, row_of_quadruple]

theorem rowSamples_cubQP : Kernel.cubQP.rowSamples h C S g =
    [(2 * g, fun x => tapSum C.c0 C.c1 C.c2 C.c3 (S (g - 2) x) (S (g - 1) x) (S g x) (S (min (g + 1) (h - 1)) x)),
      (2 * g + 1, fun x => tapSum C.c3 C.c2 C.c1 C.c0 (S (g - 1) x) (S g x) (S (min (g + 1) (h - 1)) x)
        (S (min (g + 2) (h - 1)) x))] := by
  simp [Kernel.rowSamples, Kernel.rows, Kernel.scan, Kernel.sampleOf, row_of_pair]

theorem rowSamples_cub8I : Kernel.cub8I.rowSamples h C S g =
    [(4 * g, fun x => tapSum C.c0 C.c1 C.c2 C.c3 (S (2 * (g - 2)) x) (S (2 * (g - 1)) x) (S (2 * g) x)
        (S (2 * min (g + 1) (h / 2 - 1)) x)),
      (4 * g + 1, fun x => tapSum C.c7 C.c6 C.c5 C.c4 (S (2 * (g - 2) + 1) x) (S (2 * (g - 1) + 1) x) (S (2 * g + 1) x)
        (S (2 * min (g + 1) (h / 2 - 1) + 1) x)),
      (4 * g + 2, fun x => tapSum C.c4 C.c5 C.c6 C.c7 (S (2 * (g - 1)) x) (S (2 * g) x)
        (S (2 * min (g + 1) (h / 2 - 1)) x) (S (2 * min (g + 2) (h / 2 - 1)) x)),
      (4 * g + 3, fun x => tapSum C.c3 C.c2 C.c1 C.c0 (S (2 * (g - 1) + 1) x) (S (2 * g + 1) x)
        (S (2 * min (g + 1) (h / 2 - 1) + 1) x) (S (2 * min (g + 2) (h / 2 - 1) + 1) x))] := by
  simp [Kernel.rowSamples, Kernel.rows, Kernel.scan, Kernel.sampleOf, row_of_quadruple]

end RowSamples

/-! ### The lanes of a group are its rows per sample -/

/-- Rows of samples as lanes of `l` bytes. -/
def lanesOf (l : Nat) (rows : List (Nat × (Nat → Nat))) : List (Nat × ByteLane) :=
  rows.map fun p => (p.1, (List.range l).map fun x => BitVec.ofNat 8 (p.2 x))

/-- The lane operations of a kernel make of the loaded lanes what its per-sample function makes of the samples. -/
theorem outputs_eq_lanesOf (K : Kernel) {h g l : Nat} (C : Coefs) (a : Nat → Nat → Byte) (hl : l = 16 ∨ l = 32)
    (hg : g < groupCount K.scan h) :
    K.outputs h g C (fun r => (List.range l).map (a r)) =
      lanesOf l (K.rowSamples h C (fun r x => (a r x).toNat) g) := by
  have hX : (List.range l).length = 16 ∨ (List.range l).length = 32 := by simpa using hl
  have h4 : (List.range l).length % 4 = 0 := by omega
  have hblend {w0 w1 sh : Nat} := @blend_map Nat (List.range l) w0 w1 sh
  cases K <;> simp only [Kernel.scan, groupCount] at hg
  case ptP => simp [rowSamples_ptP, Kernel.outputs, lanesOf]
  case ptI => simp [rowSamples_ptI, Kernel.outputs, lanesOf]
  case linHalfP => simp [rowSamples_linHalfP, Kernel.outputs, lanesOf, clampP_add_one hg, avg2_map]
  case linHalfI => simp [rowSamples_linHalfI, Kernel.outputs, lanesOf, fieldRow_add_one hg, avg2_map]
  case linXfI =>
    have h1 := hblend (w0 := 171) (w1 := 85) (sh := 8) (by decide) (by decide) (by decide) (by decide) rfl h4
    have h2 := hblend (w0 := 85) (w1 := 171) (sh := 8) (by decide) (by decide) (by decide) (by decide) rfl h4
    simp [rowSamples_linXfI, Kernel.outputs, lanesOf, recipeLinXf, clampP_next_top hg, h1, h2]
  case linQP =>
    simp [rowSamples_linQP, Kernel.outputs, lanesOf, clampP_sub_one hg, clampP_add_one hg,
      avg4_map_three_one]
  case linEI =>
    have h1 := hblend (w0 := 7) (w1 := 1) (sh := 3) (by decide) (by decide) (by decide) (by decide) rfl h4
    have h2 := hblend (w0 := 5) (w1 := 3) (sh := 3) (by decide) (by decide) (by decide) (by decide) rfl h4
    simp [rowSamples_linEI, Kernel.outputs, lanesOf, fieldRow_sub_one hg, fieldRow_add_one hg, h1, h2]
  case cubSymP =>
    simp [rowSamples_cubSymP, Kernel.outputs, lanesOf, clampP_sub_one hg, clampP_add_one hg, clampP_add_two hg,
      macsym_map C.c0 C.c1 hX]
  case cubSymI =>
    simp [rowSamples_cubSymI, Kernel.outputs, lanesOf, fieldRow_sub_one hg, fieldRow_add_one hg, fieldRow_add_two hg,
      macsym_map C.c0 C.c1 hX]
  case cubQP =>
    simp [rowSamples_cubQP, Kernel.outputs, lanesOf, clampP_sub_two hg, clampP_sub_one hg, clampP_add_one hg,
      clampP_add_two hg, mac4_map _ _ _ _ h4]
  case cub8I =>
    simp [rowSamples_cub8I, Kernel.outputs, lanesOf, fieldRow_sub_two hg, fieldRow_sub_one hg, fieldRow_add_one hg,
      fieldRow_add_two hg, mac4_map _ _ _ _ h4]

end Sys2Proof.Machine

/-!
PROOFS, one step of a command: what a ready step of each kernel and of the horizontal filter issues, and the statements
on it.
-/

namespace Sys2Proof.Machine

/-! ### A step of a plane command, by what it finds (R256, R258, R259) -/

section Steps

variable {s : State} {lw : LaneWidth} {ro : RowOrder}

theorem resampleStep_issues {K : Kernel}
    (hp : brokenPrecondition (laneBytes lw) s.srcView (s.dstView (2 * s.height)) = none)
    (hg : s.pos.group.toNat < groupCount K.scan s.height)
    (ha : s.admitsRows (s.srcView.ordered ro) (laneBytes lw) s.pos.col.toNat
      (K.sources s.height s.pos.group.toNat) = true) :
    resampleStep K lw ro s = .next { s.issue (rowStores ((s.dstView (2 * s.height)).ordered ro) (laneBytes lw)
        s.pos.col.toNat (K.outputs s.height s.pos.group.toNat s.coefs
          (s.loadRow (s.srcView.ordered ro) (laneBytes lw) s.pos.col.toNat))) with
      pos := s.pos.next (s.width / laneBytes lw) } := by
  simp only [resampleStep, hp, hg, ha, if_true]

theorem resampleStep_waits {K : Kernel}
    (hp : brokenPrecondition (laneBytes lw) s.srcView (s.dstView (2 * s.height)) = none)
    (hg : s.pos.group.toNat < groupCount K.scan s.height)
    (ha : s.admitsRows (s.srcView.ordered ro) (laneBytes lw) s.pos.col.toNat
      (K.sources s.height s.pos.group.toNat) = false) :
    resampleStep K lw ro s = .next s := by
  simp only [resampleStep, hp, hg, ha, if_true, Bool.false_eq_true, if_false]

theorem resampleStep_completes {K : Kernel}
    (hp : brokenPrecondition (laneBytes lw) s.srcView (s.dstView (2 * s.height)) = none)
    (hg : groupCount K.scan s.height ≤ s.pos.group.toNat) :
    resampleStep K lw ro s = .next (s.complete (s.resampleRace K ro)) := by
  simp only [resampleStep, hp, Nat.not_lt.mpr hg, if_false]

theorem hshiftStep_issues
    (hp : brokenPrecondition (laneBytes lw) s.srcView (s.dstView s.height) = none)
    (hg : s.pos.group.toNat < s.height)
    (ha : s.admitsRows (s.srcView.ordered ro) (laneBytes lw) s.pos.col.toNat [s.pos.group.toNat] = true) :
    hshiftStep lw ro s = .next
      { s.issue (rowStores ((s.dstView s.height).ordered ro) (laneBytes lw) s.pos.col.toNat
          [(s.pos.group.toNat,
            hshiftLane (s.loadRow (s.srcView.ordered ro) (laneBytes lw) s.pos.col.toNat s.pos.group.toNat)
              (if s.pos.col.toNat = 0 then
                (s.loadRow (s.srcView.ordered ro) (laneBytes lw) s.pos.col.toNat s.pos.group.toNat).headD 0#8
              else s.carry))]) with
        carry := (s.loadRow (s.srcView.ordered ro) (laneBytes lw) s.pos.col.toNat s.pos.group.toNat).getLastD 0#8
        pos := s.pos.next (s.width / laneBytes lw) } := by
  simp only [hshiftStep, hp, hg, ha, if_true]

theorem hshiftStep_waits
    (hp : brokenPrecondition (laneBytes lw) s.srcView (s.dstView s.height) = none)
    (hg : s.pos.group.toNat < s.height)
    (ha : s.admitsRows (s.srcView.ordered ro) (laneBytes lw) s.pos.col.toNat [s.pos.group.toNat] = false) :
    hshiftStep lw ro s = .next s := by
  simp only [hshiftStep, hp, hg, ha, if_true, Bool.false_eq_true, if_false]

theorem hshiftStep_completes
    (hp : brokenPrecondition (laneBytes lw) s.srcView (s.dstView s.height) = none)
    (hg : s.height ≤ s.pos.group.toNat) :
    hshiftStep lw ro s = .next (s.complete (s.hshiftRace ro)) := by
  simp only [hshiftStep, hp, Nat.not_lt.mpr hg, if_false]

/-- What `State.ready` says. -/
theorem State.ready_iff {dstRows : Nat} :
    s.ready lw ro dstRows = true ↔ s.status.busy = true ∧
      brokenPrecondition (laneBytes lw) s.srcView (s.dstView dstRows) = none ∧
      ∀ r < s.height,
        s.admits .load ((s.srcView.ordered ro).laneAddr (laneBytes lw) r s.pos.col.toNat) (laneBytes lw) = true := by
  simp [State.ready, and_assoc]

theorem admitsRows_iff {v : View} {l c : Nat} {rows : List Nat} :
    s.admitsRows v l c rows = true ↔ ∀ r ∈ rows, s.admits .load (v.laneAddr l r c) l = true := by
  simp [State.admitsRows]

end Steps

/-- P2, in the terms of the kernels. -/
theorem height_bounds {s : State} {l : Nat} {dst : View} (hp : brokenPrecondition l s.srcView dst = none) :
    4 ≤ s.height ∧ s.height % 4 = 0 := by
  obtain ⟨-, hh, -⟩ := (brokenPrecondition_none _ _ _).mp hp
  exact hh

/-! ### The source rows of a group (R80, R182, R183) -/

/-- No group loads a row outside the plane. -/
theorem sources_lt {K : Kernel} {h g r : Nat} (hh : 4 ≤ h) (h4 : h % 4 = 0) (hg : g < groupCount K.scan h)
    (hr : r ∈ K.sources h g) : r < h := by
  have hP (i : Int) : clampP h i < h := clampP_lt (by omega) i
  have h0 (k : Int) : fieldRow h 0 k < h := fieldRow_lt hh h4 (by decide) k
  have h1 (k : Int) : fieldRow h 1 k < h := fieldRow_lt hh h4 (by decide) k
  revert r
  cases K <;> simp only [Kernel.scan, groupCount] at hg <;>
    simp only [Kernel.sources, List.forall_mem_cons, List.not_mem_nil, false_imp_iff, implies_true, and_true, hP, h0,
      h1, true_and] <;> omega

/-! ### R258: one group of one column -/

theorem State.loadRow_eq_map (s : State) (v : View) (l c r : Nat) :
    s.loadRow v l c r = (List.range l).map fun x => readByte s.mem (v.laneAddr l r c + BitVec.ofNat 32 x).toNat := rfl

/-- Lanes of samples, stored, are the stores of `State.rowsStored`. -/
theorem rowStores_lanesOf (s : State) (lw : LaneWidth) (ro : RowOrder) (dstRows : Nat)
    (rows : List (Nat × (Nat → Nat))) :
    rowStores ((s.dstView dstRows).ordered ro) (laneBytes lw) s.pos.col.toNat (lanesOf (laneBytes lw) rows) =
      s.rowsStored lw ro dstRows rows := by
  simp [rowStores, lanesOf, State.rowsStored]

theorem Pos.next_eq_ite (p : Pos) (nc : Nat) :
    p.next nc = if p.col.toNat + 1 = nc then { group := p.group + 1#16, col := 0#12 }
      else { group := p.group, col := p.col + 1#12 } := rfl

/-- A ready step of a RESAMPLE issues the rows of its group, each sample computed by the kernel's per-sample
function. -/
theorem resample_stepsTo (it : IType) (st : Siting) (sc : Scan) {s : State} {lw : LaneWidth} {ro : RowOrder}
    (hready : s.ready lw ro (2 * s.height) = true) (hg : s.pos.group.toNat < groupCount (dispatch it st sc).scan s.height) :
    stepsTo (resampleInstr it st sc lw ro) s lw ro
      ((dispatch it st sc).rowSamples s.height s.coefs (s.sample lw ro) s.pos.group.toNat) := by
  obtain ⟨hb, hp, hadm⟩ := State.ready_iff.mp hready
  obtain ⟨hh, h4⟩ := height_bounds hp
  have ha := admitsRows_iff.mpr fun r (hr : r ∈ (dispatch it st sc).sources s.height s.pos.group.toNat) =>
    hadm r (sources_lt hh h4 hg hr)
  have houtputs := outputs_eq_lanesOf (dispatch it st sc) s.coefs
    (fun r x => readByte s.mem ((s.srcView.ordered ro).laneAddr (laneBytes lw) r s.pos.col.toNat + BitVec.ofNat 32 x).toNat)
    (laneBytes_cases lw) hg
  rw [stepsTo, exec_resampleInstr_busy it st sc lw ro hb, resampleStep_issues hp hg ha,
    funext (State.loadRow_eq_map s _ _ _),
    houtputs, rowStores_lanesOf, State.afterRows, ← Pos.next_eq_ite]
  rfl

/-! ### The statements on one step, kernel by kernel -/

/-- Settles O26: the ready step at the dispatch entries of K_PT_P. -/
theorem pointProgressiveStep : Obligations.PointProgressiveStep := by
  unfold Obligations.PointProgressiveStep
  intro i s lw ro hi hready hg
  simp only [← rowSamples_ptP s.height _ s.coefs (s.sample lw ro)]
  obtain rfl | rfl | rfl | rfl := hi
  · exact resample_stepsTo .point .s0 .progressive hready hg
  · exact resample_stepsTo .point .s1 .progressive hready hg
  · exact resample_stepsTo .point .s2 .progressive hready hg
  · exact resample_stepsTo .point .s3 .progressive hready hg

/-- Settles O27: the ready step at the dispatch entries of K_PT_I. -/
theorem pointInterlacedStep : Obligations.PointInterlacedStep := by
  unfold Obligations.PointInterlacedStep
  intro i s lw ro hi hready hg
  simp only [← rowSamples_ptI s.height _ s.coefs (s.sample lw ro)]
  obtain rfl | rfl | rfl | rfl := hi
  · exact resample_stepsTo .point .s0 .interlaced hready hg
  · exact resample_stepsTo .point .s1 .interlaced hready hg
  · exact resample_stepsTo .point .s2 .interlaced hready hg
  · exact resample_stepsTo .point .s3 .interlaced hready hg

/-- Settles O28: the ready step at the dispatch entries of K_LIN_HALF_P. -/
theorem linearHalfProgressiveStep : Obligations.LinearHalfProgressiveStep := by
  unfold Obligations.LinearHalfProgressiveStep
  intro i s lw ro hi hready hg
  simp only [← rowSamples_linHalfP s.height _ s.coefs (s.sample lw ro)]
  obtain rfl | rfl | rfl := hi
  · exact resample_stepsTo .linear .s0 .progressive hready hg
  · exact resample_stepsTo .linear .s1 .progressive hready hg
  · exact resample_stepsTo .linear .s3 .progressive hready hg

/-- Settles O29: the ready step at the one dispatch entry of K_LIN_HALF_I. -/
theorem linearHalfInterlacedStep : Obligations.LinearHalfInterlacedStep := by
  unfold Obligations.LinearHalfInterlacedStep
  rintro i s lw ro rfl hready hg
  simp only [← rowSamples_linHalfI s.height _ s.coefs (s.sample lw ro)]
  exact resample_stepsTo .linear .s1 .interlaced hready hg

/-- Settles O30: the two recipe rows are blends over 256. -/
theorem linearCrossFieldStep : Obligations.LinearCrossFieldStep := by
  unfold Obligations.LinearCrossFieldStep
  intro i s lw ro hi hready hg
  have hrows := rowSamples_linXfI s.height s.pos.group.toNat s.coefs (s.sample lw ro)
  simp only [blendOf, Nat.reduceSub, Nat.reducePow] at hrows
  simp only [← hrows]
  obtain rfl | rfl := hi
  · exact resample_stepsTo .linear .s0 .interlaced hready hg
  · exact resample_stepsTo .linear .s3 .interlaced hready hg

/-- Settles O31: the ready step at the one dispatch entry of K_LIN_Q_P. -/
theorem linearQuarterProgressiveStep : Obligations.LinearQuarterProgressiveStep := by
  unfold Obligations.LinearQuarterProgressiveStep
  rintro i s lw ro rfl hready hg
  simp only [← rowSamples_linQP s.height _ s.coefs (s.sample lw ro)]
  exact resample_stepsTo .linear .s2 .progressive hready hg

/-- Settles O32: the four rows are blends over 8. -/
theorem linearEighthInterlacedStep : Obligations.LinearEighthInterlacedStep := by
  unfold Obligations.LinearEighthInterlacedStep
  rintro i s lw ro rfl hready hg
  have hrows := rowSamples_linEI s.height s.pos.group.toNat s.coefs (s.sample lw ro)
  simp only [blendOf, Nat.reduceSub, Nat.reducePow, Nat.one_mul] at hrows
  simp only [← hrows]
  exact resample_stepsTo .linear .s2 .interlaced hready hg

/-- Settles O33: the ready step at the dispatch entries of K_CUB_SYM_P. -/
theorem cubicSymmetricProgressiveStep : Obligations.CubicSymmetricProgressiveStep := by
  unfold Obligations.CubicSymmetricProgressiveStep
  intro i s lw ro hi hready hg
  simp only [← rowSamples_cubSymP s.height _ s.coefs (s.sample lw ro)]
  obtain rfl | rfl := hi
  · exact resample_stepsTo .cubic .s0 .progressive hready hg
  · exact resample_stepsTo .cubic .s3 .progressive hready hg

/-- Settles O34: the ready step at the dispatch entries of K_CUB_SYM_I. -/
theorem cubicSymmetricInterlacedStep : Obligations.CubicSymmetricInterlacedStep := by
  unfold Obligations.CubicSymmetricInterlacedStep
  intro i s lw ro hi hready hg
  simp only [← rowSamples_cubSymI s.height _ s.coefs (s.sample lw ro)]
  obtain rfl | rfl := hi
  · exact resample_stepsTo .cubic .s0 .interlaced hready hg
  · exact resample_stepsTo .cubic .s3 .interlaced hready hg

/-- Settles O35: the ready step at the dispatch entries of K_CUB_Q_P. -/
theorem cubicQuarterProgressiveStep : Obligations.CubicQuarterProgressiveStep := by
  unfold Obligations.CubicQuarterProgressiveStep
  intro i s lw ro hi hready hg
  simp only [← rowSamples_cubQP s.height _ s.coefs (s.sample lw ro)]
  obtain rfl | rfl := hi
  · exact resample_stepsTo .cubic .s1 .progressive hready hg
  · exact resample_stepsTo .cubic .s2 .progressive hready hg

/-- Settles O36: the ready step at the dispatch entries of K_CUB_8_I. -/
theorem cubicEightTapInterlacedStep : Obligations.CubicEightTapInterlacedStep := by
  unfold Obligations.CubicEightTapInterlacedStep
  intro i s lw ro hi hready hg
  simp only [← rowSamples_cub8I s.height _ s.coefs (s.sample lw ro)]
  obtain rfl | rfl := hi
  · exact resample_stepsTo .cubic .s1 .interlaced hready hg
  · exact resample_stepsTo .cubic .s2 .interlaced hready hg

/-! ### HSHIFT (R281, R283) -/

/-- The left neighbour of place x: the carry at place 0 (R165). -/
theorem shiftIn_map_range {l : Nat} (hl : 0 < l) (a : Nat → Byte) (cy : Byte) :
    shiftIn ((List.range l).map a) cy = (List.range l).map fun x => if x = 0 then cy else a (x - 1) := by
  obtain ⟨n, rfl⟩ := Nat.exists_eq_succ_of_ne_zero hl.ne'
  apply List.ext_getElem
  case hl => simp [shiftIn]
  case h =>
    intro x _ _
    cases x with
    | zero => simp [shiftIn]
    | succ x => simp [shiftIn]

theorem hshiftLane_map_range {l : Nat} (hl : 0 < l) (a : Nat → Byte) (cy : Byte) :
    hshiftLane ((List.range l).map a) cy = (List.range l).map fun x =>
      BitVec.ofNat 8 ((3 * (a x).toNat + (if x = 0 then cy.toNat else (a (x - 1)).toNat) + 2) / 4) := by
  rw [hshiftLane, shiftIn_map_range hl, avg4_map_three_one]
  refine List.map_congr_left fun x _ => ?_
  split_ifs <;> rfl

theorem headD_map_range {l : Nat} (hl : 0 < l) (a : Nat → Byte) : ((List.range l).map a).headD 0#8 = a 0 := by
  obtain ⟨n, rfl⟩ := Nat.exists_eq_succ_of_ne_zero hl.ne'
  simp [List.range_succ_eq_map]

theorem getLastD_map_range {l : Nat} (hl : 0 < l) (a : Nat → Byte) :
    ((List.range l).map a).getLastD 0#8 = a (l - 1) := by
  obtain ⟨n, rfl⟩ := Nat.exists_eq_succ_of_ne_zero hl.ne'
  simp [List.range_succ]

theorem laneBytes_pos (lw : LaneWidth) : 0 < laneBytes lw := by cases lw <;> decide

/-- Settles O37: the carry enters at place 0, and in column 0 it is the first sample itself. -/
theorem hshiftStepFilters : Obligations.HshiftStepFilters := by
  unfold Obligations.HshiftStepFilters
  intro s lw ro hready hg
  obtain ⟨hb, hp, hadm⟩ := State.ready_iff.mp hready
  have ha := admitsRows_iff (s := s).mpr fun r (hr : r ∈ [s.pos.group.toNat]) =>
    hadm r (List.mem_singleton.mp hr ▸ hg)
  have hl := laneBytes_pos lw
  have hcol : s.pos.col.toNat = 0 ↔ s.pos.col = 0#12 := by rw [← BitVec.toNat_inj]; rfl
  rw [exec_hshift_busy lw ro hb, hshiftStep_issues hp hg ha, State.loadRow_eq_map, hshiftLane_map_range hl,
    headD_map_range hl, getLastD_map_range hl, Pos.next_eq_ite]
  simp only [rowStores, List.map_cons, List.map_nil, State.sample, hcol, BitVec.ofNat_toNat,
    BitVec.setWidth_eq, apply_ite BitVec.toNat]
  rfl

end Sys2Proof.Machine

/-!
PROOFS, plane views: the addresses of a mirrored view, the region of a view as a set of byte addresses, what P1 to P6
say of it, and the statements on the mirror and on broken preconditions.
-/

namespace Sys2Proof.Machine

/-! ### Addresses modulo 2^32 (R72, R73) -/

theorem ofInt_toNat (a : Word) : BitVec.ofInt 32 (a.toNat : Int) = a := by
  rw [BitVec.ofInt_natCast, BitVec.ofNat_toNat, BitVec.setWidth_eq]

/-- The mirror's base is a word, but rows are counted from it modulo 2^32 too. -/
theorem View.mirror_rowAddr (v : View) (r : Int) : v.mirror.rowAddr r = v.rowAddr ((v.rows : Int) - 1 - r) := by
  rw [View.rowAddr, View.rowStart, BitVec.ofInt_add, View.mirror, ofInt_toNat, View.rowAddr, ← BitVec.ofInt_add,
    View.rowAddr]
  congr 1
  simp only [View.rowStart]
  ring

@[simp] theorem View.mirror_rows (v : View) : v.mirror.rows = v.rows := rfl

@[simp] theorem View.mirror_width (v : View) : v.mirror.width = v.width := rfl

@[simp] theorem View.ordered_rows (v : View) (ro : RowOrder) : (v.ordered ro).rows = v.rows := by cases ro <;> rfl

@[simp] theorem View.ordered_width (v : View) (ro : RowOrder) : (v.ordered ro).width = v.width := by cases ro <;> rfl

/-! ### A region that does not wrap (R79) -/

/-- P5 for one view, row by row. -/
theorem View.inSpace_iff_rows (v : View) :
    v.inSpace = true ↔ ∀ r < v.rows, 0 ≤ v.rowStart r ∧ v.rowStart r + v.width ≤ 2 ^ 32 := by
  simp [View.inSpace]

theorem View.rowAddr_toNat {v : View} (hs : v.inSpace = true) (hw : 0 < v.width) {r : Nat} (hr : r < v.rows) :
    ((v.rowAddr r).toNat : Int) = v.rowStart r := by
  obtain ⟨h0, h1⟩ := v.inSpace_iff_rows.mp hs r hr
  rw [View.rowAddr, BitVec.toNat_ofInt]
  omega

theorem View.mirror_rowStart {v : View} (hs : v.inSpace = true) (hw : 0 < v.width) {r : Nat} (hr : r < v.rows) :
    v.mirror.rowStart r = v.rowStart ((v.rows - 1 - r : Nat) : Int) := by
  have hlast := View.rowAddr_toNat hs hw (r := v.rows - 1) (by omega)
  have hcast : ((v.rows - 1 : Nat) : Int) = (v.rows : Int) - 1 := by omega
  rw [hcast] at hlast
  have hcast' : ((v.rows - 1 - r : Nat) : Int) = (v.rows : Int) - 1 - r := by omega
  rw [hcast', View.rowStart, View.mirror, hlast]
  simp only [View.rowStart]
  ring

theorem View.mirror_inSpace {v : View} (hs : v.inSpace = true) (hw : 0 < v.width) : v.mirror.inSpace = true := by
  rw [View.inSpace_iff_rows]
  intro r hr
  rw [View.mirror_rows] at hr
  rw [View.mirror_rowStart hs hw hr]
  exact v.inSpace_iff_rows.mp hs _ (by omega)

theorem View.holds_iff (v : View) (a : Nat) :
    v.holds a = true ↔ ∃ r < v.rows, v.rowStart r ≤ a ∧ (a : Int) < v.rowStart r + v.width := by
  simp [View.holds]

theorem View.mirror_holds {v : View} (hs : v.inSpace = true) (hw : 0 < v.width) (a : Nat) :
    v.mirror.holds a = v.holds a := by
  rw [Bool.eq_iff_iff, View.holds_iff, View.holds_iff]
  constructor
  · rintro ⟨r, hr, h⟩
    rw [View.mirror_rows] at hr
    rw [View.mirror_rowStart hs hw hr] at h
    exact ⟨v.rows - 1 - r, by omega, h⟩
  · rintro ⟨r, hr, h⟩
    refine ⟨v.rows - 1 - r, by rw [View.mirror_rows]; omega, ?_⟩
    rw [View.mirror_rowStart hs hw (by omega), show v.rows - 1 - (v.rows - 1 - r) = r by omega]
    exact h

/-- Settles O57: a row of the mirror has the address of the row counted from the other end, with and without the
reduction modulo 2^32. -/
theorem mirrorReversesRows : Obligations.MirrorReversesRows := by
  unfold Obligations.MirrorReversesRows
  refine fun v r hr => ⟨v.mirror_rowAddr r, fun l c => ?lane, ?twice, fun hs hw a => View.mirror_holds hs hw a⟩
  case lane =>
    rw [View.laneAddr, View.laneAddr, View.mirror_rowAddr, show ((v.rows - 1 - r : Nat) : Int) = v.rows - 1 - r by omega]
  case twice =>
    rw [View.mirror_rowAddr, View.mirror_rowAddr, View.mirror_rows]
    congr 1
    ring

/-! ### Both row orders at once -/

section Ordered

variable {v : View} (ro : RowOrder) (hs : v.inSpace = true) (hw : 0 < v.width)

include hs hw

theorem View.ordered_inSpace : (v.ordered ro).inSpace = true := by
  cases ro
  · exact hs
  · exact View.mirror_inSpace hs hw

theorem View.ordered_holds (a : Nat) : (v.ordered ro).holds a = v.holds a := by
  cases ro
  · rfl
  · exact View.mirror_holds hs hw a

end Ordered

/-! ### The bytes of a view -/

section Bytes

variable {v : View} (hs : v.inSpace = true)

include hs

theorem View.byteAddr_toNat {r x : Nat} (hr : r < v.rows) (hx : x < v.width) :
    ((v.byteAddr r x).toNat : Int) = v.rowStart r + x := by
  have hrow := View.rowAddr_toNat hs (by omega) hr
  obtain ⟨h0, h1⟩ := v.inSpace_iff_rows.mp hs r hr
  rw [View.byteAddr, BitVec.toNat_add, BitVec.toNat_ofNat]
  omega

theorem View.holds_byteAddr {r x : Nat} (hr : r < v.rows) (hx : x < v.width) :
    v.holds (v.byteAddr r x).toNat = true := by
  have := View.byteAddr_toNat hs hr hx
  rw [View.holds_iff]
  exact ⟨r, hr, by omega, by omega⟩

end Bytes

/-! ### P1 to P6 in byte addresses (R298) -/

/-- A byte address of a view, before reduction modulo 2^32 (R79). -/
def View.region (v : View) (a : Int) : Prop := ∃ r < v.rows, ∃ x < v.width, a = v.rowStart r + (x : Nat)

theorem View.inSpace_iff_region {v : View} (hw : 0 < v.width) :
    v.inSpace = true ↔ ∀ a, v.region a → 0 ≤ a ∧ a < 2 ^ 32 := by
  rw [View.inSpace_iff_rows]
  constructor
  · rintro h a ⟨r, hr, x, hx, rfl⟩
    have := h r hr
    omega
  · intro h r hr
    have hfirst := h _ ⟨r, hr, 0, hw, rfl⟩
    have hlast := h _ ⟨r, hr, v.width - 1, by omega, rfl⟩
    omega

/-- Two rows that are not apart share the later one's first byte. -/
theorem View.disjoint_iff_region {v w : View} (hv : 0 < v.width) (hw : 0 < w.width) :
    v.disjoint w = true ↔ ∀ a, ¬ (v.region a ∧ w.region a) := by
  simp only [View.disjoint, List.all_eq_true, List.mem_range, Bool.or_eq_true, decide_eq_true_eq]
  constructor
  · rintro h a ⟨⟨r, hr, x, hx, hax⟩, ⟨q, hq, y, hy, hay⟩⟩
    have := h r hr q hq
    omega
  · intro h r hr q hq
    by_contra hmeet
    push Not at hmeet
    obtain ⟨h1, h2⟩ := hmeet
    obtain hle | hle := le_total (v.rowStart r) (w.rowStart q)
    · exact h (w.rowStart q) ⟨⟨r, hr, (w.rowStart q - v.rowStart r).toNat, by omega, by omega⟩, ⟨q, hq, 0, hw, by simp⟩⟩
    · exact h (v.rowStart r) ⟨⟨r, hr, 0, hv, by simp⟩, ⟨q, hq, (v.rowStart r - w.rowStart q).toNat, by omega, by omega⟩⟩

theorem View.aligned_iff (v : View) (l : Nat) : v.aligned l = true ↔ l ∣ v.base.toNat ∧ (l : Int) ∣ v.stride := by
  rw [View.aligned, Bool.and_eq_true, decide_eq_true_eq, decide_eq_true_eq, Nat.dvd_iff_mod_eq_zero,
    Int.dvd_iff_emod_eq_zero]

theorem View.spaced_iff (v : View) : v.spaced = true ↔ v.width ≤ v.stride.natAbs := by
  simp [View.spaced]

/-- A plane command in progress is stopped by the precondition its step finds broken (R298). -/
theorem exec_of_brokenPrecondition {i : Instr} {s : State} {lw : LaneWidth} {dstRows : Nat} {r : Refusal}
    (hb : s.status.busy = true)
    (hi : ((∃ it st sc ro, i = resampleInstr it st sc lw ro) ∧ dstRows = 2 * s.height) ∨
      ((∃ ro, i = .hshift lw ro) ∧ dstRows = s.height))
    (hr : brokenPrecondition (laneBytes lw) s.srcView (s.dstView dstRows) = some r) : exec i s = .refused r := by
  obtain ⟨⟨it, st, sc, ro, rfl⟩, rfl⟩ | ⟨⟨ro, rfl⟩, rfl⟩ := hi
  · simp only [exec_resampleInstr_busy it st sc lw ro hb, resampleStep, hr]
  · simp only [exec_hshift_busy lw ro hb, hshiftStep, hr]

/-- With P1 to P6 met it answers (R258 to R260). -/
theorem exec_of_preconditions {i : Instr} {s : State} {lw : LaneWidth} {dstRows : Nat} (hb : s.status.busy = true)
    (hi : ((∃ it st sc ro, i = resampleInstr it st sc lw ro) ∧ dstRows = 2 * s.height) ∨
      ((∃ ro, i = .hshift lw ro) ∧ dstRows = s.height))
    (hp : brokenPrecondition (laneBytes lw) s.srcView (s.dstView dstRows) = none) : ∃ t, exec i s = .next t := by
  obtain ⟨⟨it, st, sc, ro, rfl⟩, rfl⟩ | ⟨⟨ro, rfl⟩, rfl⟩ := hi
  · rw [exec_resampleInstr_busy it st sc lw ro hb]
    simp only [resampleStep, hp]
    split_ifs <;> exact ⟨_, rfl⟩
  · rw [exec_hshift_busy lw ro hb]
    simp only [hshiftStep, hp]
    split_ifs <;> exact ⟨_, rfl⟩

/-- P1 to P6 are looked at in their order. -/
theorem brokenPrecondition_eq_checks {l : Nat} (hl : 0 < l) {src dst : View} (hw : dst.width = src.width)
    {p1 p2 p3 p4 p5 p6 : Prop} (h1 : p1 ↔ l ≤ src.width ∧ l ∣ src.width) (h2 : p2 ↔ 4 ≤ src.rows ∧ 4 ∣ src.rows)
    (h3 : p3 ↔ src.aligned l = true ∧ dst.aligned l = true) (h4 : p4 ↔ src.spaced = true ∧ dst.spaced = true)
    (h5 : p5 ↔ ∀ a, src.region a ∨ dst.region a → 0 ≤ a ∧ a < 2 ^ 32)
    (h6 : p6 ↔ ∀ a, ¬ (src.region a ∧ dst.region a)) :
    (¬ p1 → brokenPrecondition l src dst = some .badWidth) ∧
    (p1 ∧ ¬ p2 → brokenPrecondition l src dst = some .badHeight) ∧
    (p1 ∧ p2 ∧ ¬ p3 → brokenPrecondition l src dst = some .misalignedPlane) ∧
    (p1 ∧ p2 ∧ p3 ∧ ¬ p4 → brokenPrecondition l src dst = some .shortStride) ∧
    (p1 ∧ p2 ∧ p3 ∧ p4 ∧ ¬ p5 → brokenPrecondition l src dst = some .regionWraps) ∧
    (p1 ∧ p2 ∧ p3 ∧ p4 ∧ p5 ∧ ¬ p6 → brokenPrecondition l src dst = some .planesOverlap) ∧
    (p1 ∧ p2 ∧ p3 ∧ p4 ∧ p5 ∧ p6 → brokenPrecondition l src dst = none) := by
  have c1 : (src.width < l ∨ src.width % l ≠ 0) ↔ ¬ p1 := by rw [h1, Nat.dvd_iff_mod_eq_zero]; omega
  have c2 : (src.rows < 4 ∨ src.rows % 4 ≠ 0) ↔ ¬ p2 := by rw [h2]; omega
  have c3 : (!(src.aligned l && dst.aligned l)) = true ↔ ¬ p3 := by rw [h3]; simp [imp_iff_not_or]
  have c4 : (!(src.spaced && dst.spaced)) = true ↔ ¬ p4 := by rw [h4]; simp [imp_iff_not_or]
  have c5 (hp : p1) : (!(src.inSpace && dst.inSpace)) = true ↔ ¬ p5 := by
    have hsrc : 0 < src.width := hl.trans_le (h1.mp hp).1
    rw [h5, Bool.not_eq_true', ← Bool.not_eq_true, Bool.and_eq_true, View.inSpace_iff_region hsrc,
      View.inSpace_iff_region (hw ▸ hsrc)]
    exact not_congr ⟨fun ⟨h, h'⟩ a ha => ha.elim (h a) (h' a),
      fun h => ⟨fun a ha => h a (.inl ha), fun a ha => h a (.inr ha)⟩⟩
  have c6 (hp : p1) : (!(src.disjoint dst)) = true ↔ ¬ p6 := by
    have hsrc : 0 < src.width := hl.trans_le (h1.mp hp).1
    rw [h6, Bool.not_eq_true', ← Bool.not_eq_true, View.disjoint_iff_region hsrc (hw ▸ hsrc)]
  have met {c p : Prop} (h : c ↔ ¬ p) (y : p) : ¬ c := fun hc => h.mp hc y
  unfold brokenPrecondition
  refine ⟨fun n1 => ?_, fun ⟨y1, n2⟩ => ?_, fun ⟨y1, y2, n3⟩ => ?_, fun ⟨y1, y2, y3, n4⟩ => ?_,
    fun ⟨y1, y2, y3, y4, n5⟩ => ?_, fun ⟨y1, y2, y3, y4, y5, n6⟩ => ?_, fun ⟨y1, y2, y3, y4, y5, y6⟩ => ?_⟩
  · rw [if_pos (c1.mpr n1)]
  · rw [if_neg (met c1 y1), if_pos (c2.mpr n2)]
  · rw [if_neg (met c1 y1), if_neg (met c2 y2), if_pos (c3.mpr n3)]
  · rw [if_neg (met c1 y1), if_neg (met c2 y2), if_neg (met c3 y3), if_pos (c4.mpr n4)]
  · rw [if_neg (met c1 y1), if_neg (met c2 y2), if_neg (met c3 y3), if_neg (met c4 y4), if_pos ((c5 y1).mpr n5)]
  · rw [if_neg (met c1 y1), if_neg (met c2 y2), if_neg (met c3 y3), if_neg (met c4 y4), if_neg (met (c5 y1) y5),
      if_pos ((c6 y1).mpr n6)]
  · rw [if_neg (met c1 y1), if_neg (met c2 y2), if_neg (met c3 y3), if_neg (met c4 y4), if_neg (met (c5 y1) y5),
      if_neg (met (c6 y1) y6)]

/-- Settles O40: the statement's P1 to P6 are the views' own, and they are looked at in their order. -/
theorem brokenPreconditionRefused : Obligations.BrokenPreconditionRefused := by
  unfold Obligations.BrokenPreconditionRefused
  intro i s lw dstRows hb hi L W H inSrc inDst p1 p2 p3 p4 p5 p6
  have h3 : p3 ↔ s.srcView.aligned L = true ∧ (s.dstView dstRows).aligned L = true := by
    simp only [View.aligned_iff]
    exact ⟨fun ⟨a, b, c, d⟩ => ⟨⟨a, c⟩, b, d⟩, fun ⟨⟨a, c⟩, b, d⟩ => ⟨a, b, c, d⟩⟩
  have h4 : p4 ↔ s.srcView.spaced = true ∧ (s.dstView dstRows).spaced = true := by
    simp only [View.spaced_iff]
    rfl
  obtain ⟨b1, b2, b3, b4, b5, b6, b7⟩ := brokenPrecondition_eq_checks (laneBytes_pos lw) (src := s.srcView)
    (dst := s.dstView dstRows) rfl (p1 := p1) (p2 := p2) (p5 := p5) (p6 := p6) Iff.rfl Iff.rfl h3 h4 Iff.rfl Iff.rfl
  have refused {r : Refusal} := exec_of_brokenPrecondition (r := r) hb hi
  exact ⟨fun h => refused (b1 h), fun h => refused (b2 h), fun h => refused (b3 h), fun h => refused (b4 h),
    fun h => refused (b5 h), fun h => refused (b6 h), fun h => exec_of_preconditions hb hi (b7 h)⟩

end Sys2Proof.Machine

/-!
PROOFS, properties of the kernels: a row is one function of the lanes it reads, constant planes stay constant.
-/

namespace Sys2Proof.Machine

/-! ### A row as a function of the lanes it reads (R185 to R191, R211 to R214) -/

/-- Destination row j of a kernel, from the lanes of the source rows listed for it, in their order. -/
def Kernel.rowLane (K : Kernel) (C : Coefs) (j : Nat) (S : List ByteLane) : ByteLane :=
  match K, S with
  | .linHalfP, [a, b] | .linHalfI, [a, b] => avg2 a b
  | .linXfI, [a, b] => if j % 4 = 2 then (recipeLinXf a b).1 else (recipeLinXf a b).2
  | .linQP, [a, b] => avg4 a a a b
  | .linEI, [a, b] => if j % 4 = 0 ∨ j % 4 = 3 then blend 7#16 1#16 3 a b else blend 5#16 3#16 3 a b
  | .cubSymP, [a, b, c, d] | .cubSymI, [a, b, c, d] => macsym C.c0 C.c1 a b c d
  | .cubQP, [a, b, c, d] =>
    if j % 2 = 0 then mac4 C.c0 C.c1 C.c2 C.c3 a b c d else mac4 C.c3 C.c2 C.c1 C.c0 a b c d
  | .cub8I, [a, b, c, d] =>
    if j % 4 = 0 then mac4 C.c0 C.c1 C.c2 C.c3 a b c d
    else if j % 4 = 1 then mac4 C.c7 C.c6 C.c5 C.c4 a b c d
    else if j % 4 = 2 then mac4 C.c4 C.c5 C.c6 C.c7 a b c d
    else mac4 C.c3 C.c2 C.c1 C.c0 a b c d
  | _, [a] => a
  | _, _ => []

theorem row_of_pair_int (g : Nat) : (2 * (g : Int) + 1) / 2 = g := by omega

theorem row_of_quadruple_int (g : Nat) :
    (4 * (g : Int) + 1) / 4 = g ∧ (4 * (g : Int) + 2) / 4 = g ∧ (4 * (g : Int) + 3) / 4 = g := by omega

/-- The rows of a group, each from the lanes it reads. -/
theorem outputs_eq_rowLane (K : Kernel) {h g : Nat} (C : Coefs) (S : Nat → ByteLane)
    (hg : g < groupCount K.scan h) :
    K.outputs h g C S = (K.rows g).map fun j => (j, K.rowLane C j ((K.reads h j).map S)) := by
  cases K <;> simp only [Kernel.scan, groupCount] at hg
  case ptP | linHalfP | linQP | cubSymP | cubQP =>
    simp [Kernel.outputs, Kernel.rows, Kernel.scan, Kernel.reads, Kernel.rowLane, row_of_pair, row_of_pair_int,
      clampP_self hg]
  case ptI | linHalfI | linXfI | linEI | cubSymI | cub8I =>
    simp [Kernel.outputs, Kernel.rows, Kernel.scan, Kernel.reads, Kernel.rowLane, row_of_quadruple,
      row_of_quadruple_int, fieldRow_self hg, clampP_bottom hg]

/-- A row is computed from rows its group loads. -/
theorem reads_subset_sources {K : Kernel} {h g j r : Nat} (hg : g < groupCount K.scan h) (hj : j ∈ K.rows g)
    (hr : r ∈ K.reads h j) : r ∈ K.sources h g := by
  revert r
  revert j
  cases K <;> simp only [Kernel.scan, groupCount] at hg
  case ptP | linHalfP | linQP | cubSymP | cubQP =>
    simp [Kernel.sources, Kernel.rows, Kernel.scan, Kernel.reads, row_of_pair, row_of_pair_int,
      clampP_self hg]
  case ptI | linHalfI | linXfI | linEI | cubSymI | cub8I =>
    simp [Kernel.sources, Kernel.rows, Kernel.scan, Kernel.reads, row_of_quadruple, row_of_quadruple_int, fieldRow_self hg,
      clampP_bottom hg]

/-- Planes that agree on the rows a group loads give the same destination rows. -/
theorem outputs_congr_sources {K : Kernel} {h g : Nat} (C : Coefs) {S T : Nat → ByteLane}
    (hg : g < groupCount K.scan h) (hST : ∀ r ∈ K.sources h g, S r = T r) : K.outputs h g C S = K.outputs h g C T := by
  rw [outputs_eq_rowLane K C S hg, outputs_eq_rowLane K C T hg]
  refine List.map_congr_left fun j hj => ?_
  rw [List.map_congr_left fun r hr => hST r (reads_subset_sources hg hj hr)]

/-- Coefficient registers a kernel does not read make no difference (R216). -/
theorem outputs_congr_coefs {K : Kernel} {h g : Nat} {C D : Coefs} (S : Nat → ByteLane)
    (hCD : ∀ j < K.coefCount, C.get j = D.get j) : K.outputs h g C S = K.outputs h g D S := by
  cases K <;> simp only [Kernel.coefCount] at hCD
  case ptP | ptI | linHalfP | linHalfI | linXfI | linQP | linEI => rfl
  case cubSymP | cubSymI =>
    have h0 : C.c0 = D.c0 := hCD 0 (by decide)
    have h1 : C.c1 = D.c1 := hCD 1 (by decide)
    simp only [Kernel.outputs, h0, h1]
  case cubQP =>
    have h0 : C.c0 = D.c0 := hCD 0 (by decide)
    have h1 : C.c1 = D.c1 := hCD 1 (by decide)
    have h2 : C.c2 = D.c2 := hCD 2 (by decide)
    have h3 : C.c3 = D.c3 := hCD 3 (by decide)
    simp only [Kernel.outputs, h0, h1, h2, h3]
  case cub8I =>
    have hC : C = D := by
      cases C
      cases D
      simp only [Coefs.mk.injEq]
      exact ⟨hCD 0 (by decide), hCD 1 (by decide), hCD 2 (by decide), hCD 3 (by decide), hCD 4 (by decide),
        hCD 5 (by decide), hCD 6 (by decide), hCD 7 (by decide)⟩
    rw [hC]

/-- Settles O56: clamping keeps the loads inside the plane, and a row is one function of the lanes it reads. -/
theorem sourceRowsInBounds : Obligations.SourceRowsInBounds := by
  unfold Obligations.SourceRowsInBounds
  intro K h g C hh h4 hg
  rw [← groupCount_eq_ite] at hg
  refine ⟨fun r hr => sources_lt hh h4 hg hr, ?loads, fun S T hST => outputs_congr_sources C hg hST,
    fun S T p hp => ?reads, fun D S hCD => outputs_congr_coefs S fun j hj => hCD j ?count⟩
  case loads => cases K <;> rfl
  case reads =>
    rw [outputs_eq_rowLane K C S hg, List.mem_map] at hp
    obtain ⟨j, hj, rfl⟩ := hp
    refine ⟨fun r hr => reads_subset_sources hg hj hr, fun hST => ?_⟩
    rw [outputs_eq_rowLane K C T hg, List.map_congr_left hST]
    exact List.mem_map.mpr ⟨j, hj, rfl⟩
  case count => cases K <;> exact hj

/-! ### Constant planes (R193, R217) -/

/-- Four taps that sum to within 2 of 1024 give a constant back: the error is below half of the divisor. -/
theorem tapSum_const {q0 q1 q2 q3 : Half} {v : Nat} (hv : v ≤ 255)
    (h1 : 1022 ≤ q0.toInt + q1.toInt + q2.toInt + q3.toInt) (h2 : q0.toInt + q1.toInt + q2.toInt + q3.toInt ≤ 1026) :
    tapSum q0 q1 q2 q3 v v v v = v := by
  obtain ⟨e, he⟩ : ∃ e : Int, q0.toInt + q1.toInt + q2.toInt + q3.toInt = 1024 + e :=
    ⟨q0.toInt + q1.toInt + q2.toInt + q3.toInt - 1024, by ring⟩
  have hsum : q0.toInt * v + q1.toInt * v + q2.toInt * v + q3.toInt * v + 512 = v * 1024 + (e * v + 512) := by
    rw [← Int.add_mul, ← Int.add_mul, ← Int.add_mul, he]
    ring
  have hround : (e * v + 512) / 1024 = 0 := by
    have hv' : (v : Int) ≤ 255 := by exact_mod_cast hv
    have hv0 : (0 : Int) ≤ v := Int.natCast_nonneg v
    refine Int.ediv_eq_zero_of_lt ?_ ?_ <;> nlinarith
  have hquot : (v * 1024 + (e * v + 512)) / 1024 = (v : Int) := by
    rw [Int.add_comm, Int.add_mul_ediv_right _ _ (by decide), hround, Int.zero_add]
  rw [tapSum, hsum, hquot, clampByte]
  omega

/-- The sum conditions under which a kernel keeps a constant plane (R193, R217). -/
def Kernel.sumsNear (K : Kernel) (C : Coefs) : Prop :=
  let near (x : Int) : Prop := 1022 ≤ x ∧ x ≤ 1026
  ((K = .cubSymP ∨ K = .cubSymI) → near (2 * (C.c0.toInt + C.c1.toInt))) ∧
  ((K = .cubQP ∨ K = .cub8I) → near (C.c0.toInt + C.c1.toInt + C.c2.toInt + C.c3.toInt)) ∧
  (K = .cub8I → near (C.c4.toInt + C.c5.toInt + C.c6.toInt + C.c7.toInt))

theorem sampleOf_const {K : Kernel} {C : Coefs} (hC : K.sumsNear C) (h j : Nat) {v : Nat} (hv : v ≤ 255) :
    K.sampleOf h C (fun _ => v) j = v := by
  obtain ⟨hsym, hfour, hlast⟩ := hC
  have hblend {w0 w1 sh : Nat} (hsh : 0 < sh) (hw : w0 + w1 = 2 ^ sh) := blendOf_self hsh hw v
  have h71 := hblend (w0 := 7) (w1 := 1) (sh := 3) (by decide) rfl
  have h53 := hblend (w0 := 5) (w1 := 3) (sh := 3) (by decide) rfl
  have h12 := hblend (w0 := 171) (w1 := 85) (sh := 8) (by decide) rfl
  have h21 := hblend (w0 := 85) (w1 := 171) (sh := 8) (by decide) rfl
  cases K <;> simp only [Kernel.sampleOf, ite_self, h71, h53, h12, h21]
  case linHalfP | linHalfI => split_ifs <;> omega
  case linQP => omega
  case cubSymP | cubSymI =>
    obtain ⟨h1, h2⟩ := hsym (by simp)
    rw [tapSum_const hv (by omega) (by omega), ite_self]
  case cubQP =>
    obtain ⟨h1, h2⟩ := hfour (by simp)
    rw [tapSum_const hv (by omega) (by omega), tapSum_const hv (by omega) (by omega), ite_self]
  case cub8I =>
    obtain ⟨h1, h2⟩ := hfour (by simp)
    obtain ⟨h3, h4⟩ := hlast rfl
    rw [tapSum_const hv (by omega) (by omega), tapSum_const hv (by omega) (by omega),
      tapSum_const hv (by omega) (by omega), tapSum_const hv (by omega) (by omega), ite_self, ite_self]

/-- Settles O54: per sample, and for the lanes because they are the samples. -/
theorem constantPlanesStayConstant : Obligations.ConstantPlanesStayConstant := by
  unfold Obligations.ConstantPlanesStayConstant
  intro K h v j g C l hh h4 hv hl hg near hsym hfour hlast
  have hC : K.sumsNear C := ⟨hsym, hfour, hlast⟩
  have hbyte : (BitVec.ofNat 8 v).toNat = v := by rw [BitVec.toNat_ofNat]; omega
  refine ⟨sampleOf_const hC h j hv, fun p hp => ?lanes⟩
  rw [← groupCount_eq_ite] at hg
  have hconst : (fun _ : Nat => List.replicate l (BitVec.ofNat 8 v)) =
      fun _ => (List.range l).map fun _ => BitVec.ofNat 8 v := by
    rw [List.map_const', List.length_range]
  rw [hconst, outputs_eq_lanesOf K C (fun _ _ => BitVec.ofNat 8 v) hl hg, lanesOf, Kernel.rowSamples, List.map_map,
    List.mem_map] at hp
  obtain ⟨i, -, rfl⟩ := hp
  simp only [Function.comp_apply, hbyte, sampleOf_const hC h i hv, List.map_const', List.length_range]

end Sys2Proof.Machine

/-!
PROOFS, stores that wait in PENDING: where they go, what performing them leaves, completion and the frame of every
instruction.
-/

namespace Sys2Proof.Machine

/-! ### Pending stores lie in the destination (R80, R81) -/

theorem State.loadRow_eq_fun (s : State) (v : View) (l c : Nat) :
    s.loadRow v l c =
      fun r => (List.range l).map fun x => readByte s.mem (v.laneAddr l r c + BitVec.ofNat 32 x).toNat :=
  funext (s.loadRow_eq_map v l c)

/-- A group's rows are rows of the destination, and each lane is whole. -/
theorem mem_outputs_loadRow {K : Kernel} {s : State} {v : View} {lw : LaneWidth} {g c : Nat} {p : Nat × ByteLane}
    (hg : g < groupCount K.scan s.height)
    (hp : p ∈ K.outputs s.height g s.coefs (s.loadRow v (laneBytes lw) c)) :
    p.1 < 2 * s.height ∧ p.2.length = laneBytes lw := by
  have hrow : p.1 ∈ K.rows g := by
    rw [← outputs_rows K s.height g s.coefs (s.loadRow v (laneBytes lw) c)]
    exact List.mem_map_of_mem hp
  rw [State.loadRow_eq_fun, outputs_eq_lanesOf K s.coefs _ (laneBytes_cases lw) hg, lanesOf, List.mem_map] at hp
  obtain ⟨q, -, rfl⟩ := hp
  exact ⟨mem_rows_lt hg hrow, by simp⟩

/-- Where a store of the command in progress goes: one clause of `State.pendingInDestination`. -/
def State.inDestinationLane (s : State) (st : LaneStore) : Prop :=
  ∃ v, s.destination = some v ∧ ∃ r c, r < v.rows ∧ c < s.columns ∧
    st.data.length = laneBytes (laneWidthOf (s.last.extractLsb' 9 1)) ∧
    st.addr = v.laneAddr (laneBytes (laneWidthOf (s.last.extractLsb' 9 1))) r c

theorem State.pendingInDestination_iff (s : State) :
    s.pendingInDestination ↔ ∀ st ∈ s.pending, s.inDestinationLane st := Iff.rfl

/-- The destination is a matter of LAST and the operand registers. -/
theorem State.inDestinationLane_congr {s t : State} (hlast : t.last = s.last) (hops : t.ops = s.ops) (st : LaneStore) :
    t.inDestinationLane st ↔ s.inDestinationLane st := by
  simp only [State.inDestinationLane, State.destination, State.columns, State.dstView, State.width, State.height, hlast,
    hops]

theorem State.pendingInDestination_of_nil {s : State} (h : s.pending = []) : s.pendingInDestination := by
  rw [State.pendingInDestination_iff, h]
  exact fun _ hst => absurd hst List.not_mem_nil

theorem State.pendingInDestination.of_subset {s t : State} (h : s.pendingInDestination) (hlast : t.last = s.last)
    (hops : t.ops = s.ops) (hp : ∀ st ∈ t.pending, st ∈ s.pending) : t.pendingInDestination :=
  fun st hst => (State.inDestinationLane_congr hlast hops st).mpr (h st (hp st hst))

theorem State.pendingInDestination.complete {s : State} (h : s.pendingInDestination) (xs : List Word) :
    (s.complete xs).pendingInDestination := by
  obtain ⟨-, hs⟩ | ⟨-, hs⟩ := complete_cases s xs <;> rw [hs]
  · exact State.pendingInDestination_of_nil rfl
  · exact h

/-- One group of one column issued, if each of its rows is a row of the destination. -/
theorem State.pendingInDestination.advance {s : State} (h : s.pendingInDestination) {lw : LaneWidth} {v : View} {nc : Nat}
    (hw : laneWidthOf (s.last.extractLsb' 9 1) = lw) (hv : s.destination = some v) (hnc : s.columns = nc) {c : Nat}
    (hc : c < nc) {rows : List (Nat × ByteLane)} (hrows : ∀ p ∈ rows, p.1 < v.rows ∧ p.2.length = laneBytes lw)
    (cy : Byte) (pos : Pos) :
    State.pendingInDestination { s.issue (rowStores v (laneBytes lw) c rows) with carry := cy, pos := pos } := by
  intro st hst
  refine (State.inDestinationLane_congr (s := s) rfl rfl st).mpr ?_
  obtain hst | hst := List.mem_append.mp hst
  · exact h st hst
  · obtain ⟨p, hp, rfl⟩ := List.mem_map.mp hst
    obtain ⟨hr, hlen⟩ := hrows p hp
    exact ⟨v, hv, p.1, c, hr, hnc ▸ hc, by rw [hw]; exact hlen, by rw [hw]⟩

/-- POS.COL is a column, also where the range of POS only says 0. -/
theorem State.Inv.col_lt {s : State} (h : s.Inv) (hb : s.status.busy = true) {nc : Nat} (hnc : s.columns = nc)
    (h1 : 1 ≤ nc) : s.pos.col.toNat < nc := by
  obtain ⟨-, hc⟩ := h.position hb
  subst hnc
  exact hc.elim (fun h0 => by rw [h0]; exact h1) id

theorem State.pendingInDestination.resampleStep {s t : State} (h : s.pendingInDestination) (hi : s.Inv)
    (hb : s.status.busy = true) {it : IType} {st : Siting} {sc : Scan} {lw : LaneWidth} {ro : RowOrder}
    (hw : s.last = resampleWord it st sc lw ro) (ht : resampleStep (dispatch it st sc) lw ro s = .next t) :
    t.pendingInDestination := by
  obtain ⟨hp, ⟨hg, -, rfl⟩ | ⟨-, -, rfl⟩ | ⟨-, rfl⟩⟩ := resampleStep_cases _ _ _ _ _ ht
  · obtain ⟨-, -, -, -, hlw, -⟩ := resampleWord_fields it st sc lw ro
    have hnc := State.columns_of_resample hw
    refine h.advance (hw ▸ hlw) (State.destination_of_resample hw) hnc (hi.col_lt hb hnc (columns_bounds hp).1) ?_ s.carry _
    intro p hmem
    rw [View.ordered_rows]
    exact mem_outputs_loadRow hg hmem
  · exact h
  · exact h.complete _

theorem State.pendingInDestination.hshiftStep {s t : State} (h : s.pendingInDestination) (hi : s.Inv)
    (hb : s.status.busy = true) {lw : LaneWidth} {ro : RowOrder} (hw : s.last = hshiftWord lw ro)
    (ht : hshiftStep lw ro s = .next t) : t.pendingInDestination := by
  obtain ⟨hp, ⟨hg, -, rfl⟩ | ⟨-, -, rfl⟩ | ⟨-, rfl⟩⟩ := hshiftStep_cases _ _ _ _ ht
  · obtain ⟨-, hlw, -⟩ := hshiftWord_fields lw ro
    have hnc := State.columns_of_hshift hw
    refine h.advance (hw ▸ hlw) (State.destination_of_hshift hw) hnc (hi.col_lt hb hnc (columns_bounds hp).1) ?_ _ _
    intro p hmem
    rw [List.mem_singleton.mp hmem, View.ordered_rows, State.loadRow_eq_map, hshiftLane_map_range (laneBytes_pos lw)]
    exact ⟨hg, by simp⟩
  · exact h
  · exact h.complete _

/-- An idle block has nothing pending, so its registers may change. -/
theorem State.pendingInDestination.writeReg {s : State} (h : s.pendingInDestination) (hi : s.Inv) (n : BitVec 6)
    (v : Word) : (s.writeReg n v).pendingInDestination := by
  by_cases h1 : n = 1#6
  · rw [h1, State.writeReg_at_status]
    exact h
  by_cases h2 : n = 2#6
  · rw [h2, State.writeReg_at_ctrl]
    exact h
  cases hb : s.status.busy with
  | true => rwa [State.writeReg_busy s n v h1 h2 hb]
  | false =>
    rw [State.writeReg_data s n v h1 h2 hb]
    obtain ⟨-, hp, -⟩ := hi.idle hb
    exact State.pendingInDestination_of_nil (by simpa using hp)

/-- Every agent's turn keeps the pending stores in the destination. -/
theorem Turn.keeps_pendingInDestination {u t : State} (hi : u.Inv) (h : u.pendingInDestination) (ht : Turn u t) :
    t.pendingInDestination := by
  cases ht with
  | rest _ ht => rwa [ht]
  | sequencer i hb hd he =>
    obtain rfl | ⟨it, st, sc, lw, ro, hw, he⟩ | ⟨lw, ro, hw, he⟩ | ⟨st, sc, -, he⟩ := exec_busy_cases hd hb he
    · exact h.complete []
    · exact h.resampleStep hi hb hw he
    · exact h.hshiftStep hi hb hw he
    · injection he with he
      subst he
      refine State.pendingInDestination.complete ?_ []
      exact h
  | command w i hb hd he =>
    obtain ⟨-, hp, -⟩ := hi.idle hb
    have haccept : (u.accept w).pendingInDestination := State.pendingInDestination_of_nil hp
    obtain rfl | rfl | rfl := exec_idle_cases hd hb he
    · exact haccept.complete []
    · exact haccept
    · exact h
  | overrun _ ht => exact ht ▸ h
  | reject r _ ht => exact ht ▸ h
  | write n v ht => exact ht ▸ h.writeReg hi n v
  | read n ht => exact ht ▸ h
  | store a v ht =>
    obtain ⟨-, hs⟩ | ⟨-, hs⟩ := hostStore_cases u a v <;> rw [hs] at ht
    · injection ht with ht
      exact ht ▸ h
    · cases ht
  | load a ht =>
    obtain ⟨-, ht⟩ := hostLoad_cases u t a ht
    rw [ht]
    exact h
  | perform k ht =>
    obtain ⟨st, -, -, hs⟩ | hs := performOne_cases u k <;> rw [ht, hs]
    · exact h.of_subset rfl rfl fun x hx => List.mem_of_mem_eraseIdx hx
    · exact h
  | reset ht => exact ht ▸ State.pendingInDestination_of_nil rfl
  | drive ports ht => exact ht ▸ h

/-- Settles O44: nothing is pending after reset, and each agent's turn keeps the pending stores where they are or adds
lanes of the destination's rows. -/
theorem storesStayInDestination : Obligations.StoresStayInDestination := by
  unfold Obligations.StoresStayInDestination
  exact ⟨State.pendingInDestination_of_nil rfl,
    fun s t hi h ht => (step_turn hi.queue ht).keeps_pendingInDestination hi.afterFetch h⟩

/-! ### What performing stores leaves, in the words of `LaneStore.covers` (R82) -/

theorem LaneStore.covers_iff (st : LaneStore) (a : Nat) :
    st.covers a = true ↔ ∃ i < st.data.length, (st.addr + BitVec.ofNat 32 i).toNat = a := LaneStore_covers_iff st a

theorem LaneStore.not_covers_iff (st : LaneStore) (a : Nat) :
    st.covers a = false ↔ ∀ i < st.data.length, (st.addr + BitVec.ofNat 32 i).toNat ≠ a := by
  rw [← Bool.not_eq_true, LaneStore.covers_iff]
  simp only [not_exists, not_and, ne_eq]

theorem LaneStore.covers_element {st : LaneStore} {j : Nat} {b : Byte} (h : st.data[j]? = some b) :
    st.covers (st.addr + BitVec.ofNat 32 j).toNat = true :=
  (st.covers_iff _).mpr ⟨j, (List.getElem?_eq_some_iff.mp h).1, rfl⟩

/-- A byte no performed store covers reads as before. -/
theorem readByte_performStores_uncovered {xs : List LaneStore} {m : List Host.Cell} {a : Nat}
    (h : ∀ st ∈ xs, st.covers a = false) : readByte (performStores m xs) a = readByte m a :=
  readByte_performStores_outside xs m a fun st hst => (st.not_covers_iff a).mp (h st hst)

/-- Of stores that are pairwise apart each one's bytes are there afterwards. -/
theorem readByte_performStores_covered {xs : List LaneStore} {m : List Host.Cell} (hm : Memory.wf m = true)
    (hapart : xs.Pairwise LaneStore.apart) (hlen : ∀ st ∈ xs, st.data.length ≤ 2 ^ 32) {st : LaneStore} (hst : st ∈ xs)
    {j : Nat} {b : Byte} (hj : st.data[j]? = some b) :
    readByte (performStores m xs) (st.addr + BitVec.ofNat 32 j).toNat = b := by
  induction xs generalizing m with
  | nil => exact absurd hst List.not_mem_nil
  | cons x xs ih =>
    obtain ⟨hx, hxs⟩ := List.pairwise_cons.mp hapart
    obtain rfl | hmem := List.mem_cons.mp hst
    · have hrest : ∀ y ∈ xs, y.covers (st.addr + BitVec.ofNat 32 j).toNat = false := fun y hy =>
        Bool.of_not_eq_true fun hc => hx y hy _ ⟨LaneStore.covers_element hj, hc⟩
      exact (readByte_performStores_uncovered hrest).trans
        (readByte_writeLane_inside st.data m st.addr j b hm (hlen st List.mem_cons_self) hj)
    · exact ih (wf_writeLane x.data m x.addr hm) hxs (fun y hy => hlen y (List.mem_cons_of_mem _ hy)) hmem

/-! ### Completion (R259) -/

theorem allAdmitted {s : State} (h : ∀ x ∈ s.pending, s.admits .store x.addr x.data.length = true) :
    s.pending.all s.admitsStore = true := List.all_eq_true.mpr h

/-- What completion leaves when everything pending is admitted and the bytes of a race are those `touched`. -/
theorem complete_effect {s : State} {xs : List Word} {touched : Nat → Prop}
    (hadm : ∀ x ∈ s.pending, s.admits .store x.addr x.data.length = true) (hnone : s.raced = [] → xs = [])
    (hxs : ∀ a, touched a ↔ ∃ x ∈ xs, x.toNat = a) :
    s.complete xs = { s with
      mem := (s.complete xs).mem
      free := (s.complete xs).free
      raced := []
      pending := []
      pos := { group := 0#16, col := 0#12 }
      status := { s.status with busy := false, done := true } } ∧
    (s.raced = [] → (s.complete xs).free = s.free) ∧
    (∀ a, (∀ st ∈ s.pending, st.covers a = false) → ¬ touched a → readByte (s.complete xs).mem a = readByte s.mem a) ∧
    (Memory.wf s.mem = true → s.pending.Pairwise LaneStore.apart → (∀ st ∈ s.pending, st.data.length ≤ 2 ^ 32) →
      ∀ st ∈ s.pending, ∀ j b, st.data[j]? = some b → ¬ touched (st.addr + BitVec.ofNat 32 j).toNat →
        readByte (s.complete xs).mem (st.addr + BitVec.ofNat 32 j).toNat = b) ∧
    (Memory.wf s.mem = true → ∀ a, touched a →
      ∃ n, s.free ≤ n ∧ n < (s.complete xs).free ∧
        readByte (s.complete xs).mem a = (Config.freeWord n).setWidth 8) := by
  rw [State.complete_of_admitted s xs (allAdmitted hadm)]
  have untouched {m : List Host.Cell} {n a : Nat} (ha : ¬ touched a) : readByte (spoil m n xs) a = readByte m a :=
    readByte_spoil_other xs m n a fun x hx he => ha ((hxs a).mpr ⟨x, hx, he⟩)
  refine ⟨rfl, fun hr => by simp [hnone hr], fun a hcov ha => ?frame, fun hm hapart hlen st hst j b hj ha => ?stored,
    fun hm a ha => ?raced⟩
  case frame => exact (untouched ha).trans (readByte_performStores_uncovered hcov)
  case stored => exact (untouched ha).trans (readByte_performStores_covered hm hapart hlen hst hj)
  case raced =>
    obtain ⟨x, hx, rfl⟩ := (hxs a).mp ha
    exact readByte_spoil_mem xs _ s.free x (wf_performStores _ _ hm) hx

/-- The scan structure selects the kernel (R230). -/
theorem scan_dispatch (it : IType) (st : Siting) (sc : Scan) : (dispatch it st sc).scan = sc := by
  cases it <;> cases st <;> cases sc <;> rfl

/-- Settles O38: both commands complete by `State.complete`, with the bytes that a race concerns (R86). -/
theorem planeCommandCompletes : Obligations.PlaneCommandCompletes := by
  unfold Obligations.PlaneCommandCompletes
  refine ⟨fun it st sc lw ro s hb hp hg hadm => ?resample, fun lw ro s hb hp hg hadm => ?hshift⟩
  case resample =>
    rw [← groupCount_eq_ite, ← scan_dispatch it st sc] at hg
    refine ⟨_, (exec_resampleInstr_busy it st sc lw ro hb).trans (resampleStep_completes hp hg),
      complete_effect hadm (resampleRace_of_none s _ ro) fun a => ?_⟩
    simp only [State.resampleRace, mem_raceBytes, View.ordered_rows, View.ordered_width]
    constructor
    · rintro ⟨j, hj, x, hx, rfl, hr⟩
      exact ⟨_, ⟨j, hj, x, hx, rfl, by simpa using hr⟩, rfl⟩
    · rintro ⟨_, ⟨j, hj, x, hx, rfl, hr⟩, rfl⟩
      exact ⟨j, hj, x, hx, rfl, by simpa using hr⟩
  case hshift =>
    refine ⟨_, (exec_hshift_busy lw ro hb).trans (hshiftStep_completes hp hg),
      complete_effect hadm (hshiftRace_of_none s ro) fun a => ?_⟩
    simp only [State.hshiftRace, mem_raceBytes, View.ordered_rows, View.ordered_width]
    constructor
    · rintro ⟨j, hj, x, hx, rfl, hr⟩
      exact ⟨_, ⟨j, hj, x, hx, rfl, by simpa using hr⟩, rfl⟩
    · rintro ⟨_, ⟨j, hj, x, hx, rfl, hr⟩, rfl⟩
      exact ⟨j, hj, x, hx, rfl, by simpa using hr⟩

/-! ### Waiting (R260, R301) -/

theorem admitsRows_eq_false {s : State} {v : View} {l c r : Nat} {rows : List Nat} (hr : r ∈ rows)
    (h : s.admits .load (v.laneAddr l r c) l = false) : s.admitsRows v l c rows = false :=
  Bool.of_not_eq_true fun ha => by simp [admitsRows_iff.mp ha r hr] at h

theorem complete_of_waiting_store {s : State} {x : LaneStore} (hx : x ∈ s.pending)
    (h : s.admits .store x.addr x.data.length = false) (xs : List Word) : s.complete xs = s :=
  State.complete_of_not_admitted s xs
    (Bool.of_not_eq_true fun ha => by simpa [State.admitsStore, h] using List.all_eq_true.mp ha x hx)

/-- Settles O39: a load that is not admitted leaves the step waiting, a store that is not admitted the completion. -/
theorem unadmittedAccessWaits : Obligations.UnadmittedAccessWaits := by
  unfold Obligations.UnadmittedAccessWaits
  refine ⟨fun it st sc lw ro s hb hp h => ?resample, fun lw ro s hb hp h => ?hshift⟩
  case resample =>
    have hscan := scan_dispatch it st sc
    rw [exec_resampleInstr_busy it st sc lw ro hb]
    rw [← groupCount_eq_ite] at h
    obtain ⟨hg, r, hr, ha⟩ | ⟨hg, x, hx, ha⟩ := h
    · exact resampleStep_waits hp (hscan.symm ▸ hg) (admitsRows_eq_false hr ha)
    · rw [resampleStep_completes hp (hscan.symm ▸ hg), complete_of_waiting_store hx ha]
  case hshift =>
    rw [exec_hshift_busy lw ro hb]
    obtain ⟨hg, ha⟩ | ⟨hg, x, hx, ha⟩ := h
    · exact hshiftStep_waits hp hg (admitsRows_eq_false List.mem_cons_self ha)
    · rw [hshiftStep_completes hp hg, complete_of_waiting_store hx ha]

end Sys2Proof.Machine

/-!
PROOFS, the frame: everything an instruction can answer with, said once for all fifty, and what none of that changes.
-/

namespace Sys2Proof.Machine

/-! ### The bytes of a race lie in the destination (R86) -/

theorem State.dstView_holds_mono (s : State) {m n : Nat} (h : m ≤ n) {a : Nat} (ha : (s.dstView m).holds a = true) :
    (s.dstView n).holds a = true := by
  obtain ⟨r, hr, hin⟩ := (View.holds_iff _ a).mp ha
  exact (View.holds_iff _ a).mpr ⟨r, Nat.lt_of_lt_of_le hr h, hin⟩

/-- P1 and P5 for the destination. -/
theorem dstView_bounds {s : State} {lw : LaneWidth} {n : Nat}
    (hp : brokenPrecondition (laneBytes lw) s.srcView (s.dstView n) = none) :
    (s.dstView n).inSpace = true ∧ 0 < (s.dstView n).width := by
  obtain ⟨⟨hw, -⟩, -, -, -, ⟨-, hs⟩, -⟩ := (brokenPrecondition_none _ _ _).mp hp
  exact ⟨hs, (laneBytes_pos lw).trans_le hw⟩

theorem raceBytes_in_destination {s : State} {lw : LaneWidth} {n : Nat}
    (hp : brokenPrecondition (laneBytes lw) s.srcView (s.dstView n) = none) (ro : RowOrder) {src : View}
    {f : Nat → Nat → List (Nat × Nat)} {raced : List Word} {x : Word}
    (hx : x ∈ raceBytes src ((s.dstView n).ordered ro) f raced) : (s.dstView n).holds x.toNat = true := by
  obtain ⟨hs, hw⟩ := dstView_bounds hp
  obtain ⟨j, hj, y, hy, rfl, -⟩ := (mem_raceBytes _ _ _ _ _).mp hx
  rw [← View.ordered_holds ro hs hw]
  exact View.holds_byteAddr (View.ordered_inSpace ro hs hw) hj hy

/-! ### Everything an instruction can answer with -/

/-- What an instruction makes of a state when it answers with a next one. -/
inductive Effect (i : Instr) (s t : State) : Prop where
  /-- it waits (R260, R301) -/
  | waits (ht : t = s)
  /-- a lane operation drives the result port -/
  | result (w : BitVec 9) (v : BitVec 256) (hw : encode i = .lop w) (ht : t = s.withResult v)
  /-- STL issues a store (R151) -/
  | store (st : LaneStore) (hi : i = .stl) (ht : t = s.issue [st])
  /-- a command is accepted (R30) -/
  | accept (w : Word) (hw : encode i = .cmd w) (ht : t = s.accept w)
  /-- NOP is accepted and completes (R255) -/
  | acceptComplete (w : Word) (hi : i = .nop) (ht : t = (s.accept w).complete [])
  /-- TAPGEN is rejected with cause 4 (R108) -/
  | reject (st : Siting) (sc : Scan) (hi : i = tapgenInstr st sc) (ht : t = s.raiseCfgErr causeNonfinite)
  /-- one group of one column is issued (R258) -/
  | advance (w : Word) (stores : List LaneStore) (cy : Byte) (p : Pos) (hw : encode i = .cmd w)
    (hcarry : (∀ lw ro, i ≠ .hshift lw ro) → cy = s.carry) (ht : t = { s.issue stores with carry := cy, pos := p })
  /-- the command completes (R259) -/
  | complete (w : Word) (xs : List Word) (hw : encode i = .cmd w) (hnone : s.raced = [] → xs = [])
    (hxs : ∀ x ∈ xs, (s.dstView (2 * s.height)).holds x.toNat = true) (ht : t = s.complete xs)
  /-- TAPGEN writes registers and completes (R134) -/
  | taps (st : Siting) (sc : Scan) (coefs : Coefs) (unwritten : List Nat) (free : Nat) (hi : i = tapgenInstr st sc)
    (ht : t = State.complete { s with coefs := coefs, unwritten := unwritten, free := free } [])

/-- A lane operation drives the result port, issues a store or waits (R150 to R165). -/
theorem effect_of_lop {i : Instr} {s t : State} {w : BitVec 9} (hw : encode i = .lop w) (he : exec i s = .next t) :
    Effect i s t := by
  cases i with
  | ldl =>
    simp only [exec, execLdl] at he
    split_ifs at he
    · exact .result w _ hw (by injection he with he; exact he.symm)
    · exact .waits (by injection he with he; exact he.symm)
  | stl =>
    simp only [exec, execStl] at he
    split_ifs at he
    exact .store _ rfl (by injection he with he; exact he.symm)
  | avg2 | avg4 | widenLo | widenHi | ilv16Lo | ilv16Hi | add16 | add32 | madd | packs32 | packus16 | bcast | shiftIn =>
    exact .result w _ hw (by injection he with he; exact he.symm)
  | sra32 imm => exact .result w _ hw (by injection he with he; exact he.symm)
  | _ => exact absurd hw (by simp [encode])

theorem effect_of_resample {it : IType} {st : Siting} {sc : Scan} {lw : LaneWidth} {ro : RowOrder} {s t : State}
    (he : exec (resampleInstr it st sc lw ro) s = .next t) : Effect (resampleInstr it st sc lw ro) s t := by
  have hw := encode_resampleInstr it st sc lw ro
  rw [exec_resampleInstr] at he
  obtain ⟨-, hs⟩ | ⟨-, hs⟩ := resample_cases it st sc lw ro s <;> rw [hs] at he
  · obtain ⟨hp, ⟨-, -, ht⟩ | ⟨-, -, ht⟩ | ⟨-, ht⟩⟩ := resampleStep_cases _ _ _ _ _ he
    · exact .advance _ _ s.carry _ hw (fun _ => rfl) ht
    · exact .waits ht
    · exact .complete _ _ hw (resampleRace_of_none s _ ro) (fun x hx => raceBytes_in_destination hp ro hx) ht
  · exact .accept _ hw (by injection he with he; exact he.symm)

theorem effect_of_hshift {lw : LaneWidth} {ro : RowOrder} {s t : State} (he : exec (.hshift lw ro) s = .next t) :
    Effect (.hshift lw ro) s t := by
  cases hb : s.status.busy with
  | true =>
    rw [exec_hshift_busy lw ro hb] at he
    obtain ⟨hp, ⟨-, -, ht⟩ | ⟨-, -, ht⟩ | ⟨-, ht⟩⟩ := hshiftStep_cases _ _ _ _ he
    · exact .advance _ _ _ _ rfl (fun h => absurd rfl (h lw ro)) ht
    · exact .waits ht
    · exact .complete _ _ rfl (hshiftRace_of_none s ro)
        (fun x hx => s.dstView_holds_mono (by omega) (raceBytes_in_destination hp ro hx)) ht
  | false =>
    rw [exec_hshift_idle lw ro hb] at he
    exact .accept _ rfl (by injection he with he; exact he.symm)

theorem effect_of_tapgen {st : Siting} {sc : Scan} {s t : State} (he : exec (tapgenInstr st sc) s = .next t) :
    Effect (tapgenInstr st sc) s t := by
  rw [exec_tapgenInstr] at he
  obtain ⟨-, hs⟩ | ⟨-, -, hs⟩ | ⟨-, -, hs⟩ := tapgen_cases st sc s <;> rw [hs] at he
  · exact .taps st sc _ _ _ rfl (by injection he with he; exact he.symm)
  · exact .accept _ (encode_tapgenInstr st sc) (by injection he with he; exact he.symm)
  · exact .reject st sc rfl (by injection he with he; exact he.symm)

theorem effect_of_nop {s t : State} (he : exec .nop s = .next t) : Effect .nop s t := by
  cases hb : s.status.busy with
  | true =>
    rw [exec_nop_busy hb] at he
    exact .complete _ [] rfl (fun _ => rfl) (fun _ hx => absurd hx List.not_mem_nil)
      (by injection he with he; exact he.symm)
  | false =>
    rw [exec_nop_idle hb] at he
    exact .acceptComplete _ rfl (by injection he with he; exact he.symm)

/-- The one operand that can be ill formed belongs to a lane operation (R112). -/
theorem wellFormed_of_encode_cmd {i : Instr} {w : Word} (h : encode i = .cmd w) : i.wellFormed = true := by
  cases i with
  | sra32 imm => cases h
  | _ => rfl

theorem exec_effect {i : Instr} {s t : State} (he : exec i s = .next t) : Effect i s t := by
  cases hw : encode i with
  | lop w => exact effect_of_lop hw he
  | cmd w =>
    have hd : decode (.cmd w) = .ok i := (decodeInvertsEncode _ _).mpr ⟨wellFormed_of_encode_cmd hw, hw⟩
    obtain ⟨-, rfl⟩ | ⟨it, st, sc, lw, ro, -, rfl⟩ | ⟨lw, ro, -, rfl⟩ | ⟨st, sc, -, rfl⟩ := decode_cmd_ok_cases hd
    · exact effect_of_nop he
    · exact effect_of_resample he
    · exact effect_of_hshift he
    · exact effect_of_tapgen he

/-! ### What each part of the state keeps -/

/-- The registers only the host writes, and what is the host's or the platform's. -/
theorem Effect.registers {i : Instr} {s t : State} (h : Effect i s t) :
    t.ie = s.ie ∧ t.ops = s.ops ∧ t.shape = s.shape ∧ t.status.ovr = s.status.ovr ∧ t.limits = s.limits ∧
    t.events = s.events ∧ t.hostData = s.hostData := by
  cases h <;> subst t <;> simp

/-- A completed command draws no free value but for the bytes of a race. -/
theorem complete_free_of_nil (s : State) : (s.complete []).free = s.free := by
  obtain ⟨-, hs⟩ | ⟨-, hs⟩ := complete_cases s [] <;> rw [hs]
  rfl

theorem Effect.coefficients {i : Instr} {s t : State} (h : Effect i s t) (hi : ∀ st sc, i ≠ tapgenInstr st sc) :
    t.coefs = s.coefs ∧ t.unwritten = s.unwritten ∧ (s.raced = [] → t.free = s.free) ∧
    t.status.cfgerr = s.status.cfgerr ∧ t.status.cause = s.status.cause := by
  cases h with
  | waits ht | result _ _ _ ht | store _ _ ht | accept _ _ ht | advance _ _ _ _ _ _ ht => subst ht; simp
  | acceptComplete w _ ht => subst ht; simp [complete_free_of_nil]
  | complete w xs _ hnone _ ht =>
    subst ht
    refine ⟨by simp, by simp, fun hr => ?_, by simp, by simp⟩
    rw [hnone hr, complete_free_of_nil]
  | reject st sc hi' _ | taps st sc _ _ _ hi' _ => exact absurd hi' (hi st sc)

theorem Effect.carry {i : Instr} {s t : State} (h : Effect i s t) (hi : ∀ lw ro, i ≠ .hshift lw ro) :
    t.carry = s.carry := by
  cases h with
  | advance _ _ _ _ _ hcarry ht => subst ht; exact hcarry hi
  | waits ht | result _ _ _ ht | store _ _ ht | accept _ _ ht | acceptComplete _ _ ht | reject _ _ _ ht
    | complete _ _ _ _ _ ht | taps _ _ _ _ _ _ ht => subst ht; simp

theorem Effect.lane {i : Instr} {s t : State} (h : Effect i s t) :
    t.lane = { s.lane with result := t.lane.result } ∧ (∀ w, encode i = .cmd w → t.lane = s.lane) := by
  cases h with
  | result w v hw ht => subst ht; exact ⟨rfl, fun w' hw' => by simp [hw] at hw'⟩
  | waits ht | store _ _ ht | accept _ _ ht | acceptComplete _ _ ht | reject _ _ _ ht | advance _ _ _ _ _ _ ht
    | complete _ _ _ _ _ ht | taps _ _ _ _ _ _ ht => subst ht; simp

theorem Effect.laneOperation {i : Instr} {s t : State} (h : Effect i s t) {w : BitVec 9} (hw : encode i = .lop w) :
    t.status = s.status ∧ t.last = s.last ∧ t.pos = s.pos ∧ t.mem = s.mem ∧ (i ≠ .stl → t.pending = s.pending) := by
  cases h with
  | waits ht | result _ _ _ ht => subst ht; simp
  | store _ hi ht => subst ht; simp [hi]
  | accept _ hw' _ | advance _ _ _ _ hw' _ _ | complete _ _ hw' _ _ _ => simp [hw] at hw'
  | acceptComplete _ hi _ => subst hi; simp [encode] at hw
  | reject _ _ hi _ | taps _ _ _ _ _ hi _ => subst hi; simp [encode_tapgenInstr] at hw

theorem complete_raced (s : State) (xs : List Word) : (s.complete xs).raced = s.raced ∨ (s.complete xs).raced = [] := by
  obtain ⟨-, hs⟩ | ⟨-, hs⟩ := complete_cases s xs <;> rw [hs]
  · exact .inr rfl
  · exact .inl rfl

theorem Effect.raced {i : Instr} {s t : State} (h : Effect i s t) : t.raced = s.raced ∨ t.raced = [] := by
  cases h with
  | waits ht | result _ _ _ ht | store _ _ ht | accept _ _ ht | reject _ _ _ ht | advance _ _ _ _ _ _ ht =>
    subst ht; simp
  | acceptComplete _ _ ht => subst ht; exact .inr ((complete_raced _ []).elim id id)
  | complete _ xs _ _ _ ht => subst ht; exact complete_raced s xs
  | taps _ _ _ _ _ _ ht => subst ht; exact complete_raced _ []

/-- Completion changes only bytes that a pending store covers and bytes of a race. -/
theorem readByte_complete (s : State) {xs : List Word} {a : Nat} (hcov : ∀ st ∈ s.pending, st.covers a = false)
    (hxs : ∀ x ∈ xs, x.toNat ≠ a) : readByte (s.complete xs).mem a = readByte s.mem a := by
  obtain ⟨-, hs⟩ | ⟨-, hs⟩ := complete_cases s xs <;> rw [hs]
  exact (readByte_spoil_other xs _ _ a hxs).trans (readByte_performStores_uncovered hcov)

theorem Effect.memory {i : Instr} {s t : State} (h : Effect i s t) {a : Nat}
    (hcov : ∀ st ∈ s.pending, st.covers a = false)
    (ha : s.raced = [] ∨ (s.dstView (2 * s.height)).holds a = false) : readByte t.mem a = readByte s.mem a := by
  cases h with
  | waits ht | result _ _ _ ht | store _ _ ht | accept _ _ ht | reject _ _ _ ht | advance _ _ _ _ _ _ ht =>
    subst ht; simp
  | acceptComplete _ _ ht => subst ht; exact readByte_complete (s.accept _) hcov fun x hx => absurd hx List.not_mem_nil
  | complete _ xs _ hnone hxs ht =>
    subst ht
    refine readByte_complete s hcov fun x hx hxa => ?_
    obtain hr | hout := ha
    · simp [hnone hr] at hx
    · simp [← hxa, hxs x hx] at hout
  | taps st sc coefs unwritten free _ ht =>
    subst ht
    exact readByte_complete { s with coefs := coefs, unwritten := unwritten, free := free } hcov
      fun x hx => absurd hx List.not_mem_nil

/-- Settles O41: every answer is one of the nine effects, and each part of the state keeps what it keeps in all of
them. -/
theorem instructionFrame : Obligations.InstructionFrame := by
  unfold Obligations.InstructionFrame
  intro i s t he
  have h := exec_effect he
  obtain ⟨hie, hops, hshape, hovr, hlimits, hevents, hhost⟩ := h.registers
  obtain ⟨hlane, hlaneCmd⟩ := h.lane
  exact ⟨hie, hops, hshape, hovr, hlimits, hevents, hhost, h.coefficients, h.carry, hlane, hlaneCmd,
    fun w hw => h.laneOperation hw, h.raced, fun a hcov ha => h.memory hcov ha⟩

end Sys2Proof.Machine

/-!
PROOFS, registers and memory as the host sees them: data registers, the STATUS word, reset, stores of the port and the
host's own accesses to memory.
-/

namespace Sys2Proof.Machine

/-! ### Data registers (R20 to R26, R32, R33) -/

/-- A write to a data register touches the three files of operands, shape and coefficients. -/
theorem State.writeData_eq (s : State) (n : BitVec 6) (v : Word) :
    s.writeData n v =
      { s with ops := (s.writeData n v).ops, shape := (s.writeData n v).shape, coefs := (s.writeData n v).coefs } := by
  unfold State.writeData
  split <;> rfl

/-- What a register holds of a word written to it: all of it, its low half, or its low half with its sign. -/
theorem State.readReg_writeData_same (s : State) {n : BitVec 6} (v : Word) (hn : 3 ≤ n.toNat) :
    (s.writeData n v).readReg n =
      (if n.toNat ∈ [4, 5, 6, 7, 12, 13, 14, 15] then v
       else if n.toNat = 8 ∨ n.toNat = 9 then BitVec.ofNat 32 (v.toNat % 2 ^ 16)
       else if 16 ≤ n.toNat ∧ n.toNat ≤ 23 then BitVec.ofInt 32 (BitVec.ofNat 16 v.toNat).toInt
       else s.readReg n) := by
  have hhalf : (v.setWidth 16).setWidth 32 = BitVec.ofNat 32 (v.toNat % 2 ^ 16) := by
    rw [← BitVec.ofNat_toNat, BitVec.toNat_setWidth]
  have hsigned : (v.setWidth 16).signExtend 32 = BitVec.ofInt 32 (BitVec.ofNat 16 v.toNat).toInt := by
    rw [← BitVec.ofNat_toNat]; rfl
  unfold State.writeData
  split
  case h_1 h | h_2 h | h_3 h | h_4 h | h_7 h | h_8 h | h_9 h | h_10 h => simp [State.readReg, h]
  case h_5 h | h_6 h => simpa [State.readReg, h] using hhalf
  case h_11 h | h_12 h | h_13 h | h_14 h | h_15 h | h_16 h | h_17 h | h_18 h =>
    simpa [State.readReg, h, Coefs.get, Coefs.set] using hsigned
  case h_19 =>
    simp only [imp_false] at *
    rw [if_neg (by simp only [List.mem_cons, List.not_mem_nil, or_false]; omega), if_neg (by omega), if_neg (by omega)]

/-- A write to one data register is not read in another: an index that is both is none. -/
theorem State.readReg_writeData_other (s : State) {n m : BitVec 6} (v : Word) (hm : 3 ≤ m.toNat) (h : m ≠ n) :
    (s.writeData n v).readReg m = s.readReg m := by
  have hne : m.toNat ≠ n.toNat := fun he => h (BitVec.eq_of_toNat_eq he)
  unfold State.writeData
  split <;> unfold State.readReg <;> split <;> try omega
  all_goals rfl

/-- Settles O9: the write is `State.writeData`, which one read sees and the others do not. -/
theorem dataRegisterWriteThenRead : Obligations.DataRegisterWriteThenRead := by
  unfold Obligations.DataRegisterWriteThenRead
  intro s n v rest h hb hn
  have h0 : n ≠ 0#6 := by bv_omega
  have h1 : n ≠ 1#6 := by bv_omega
  have h2 : n ≠ 2#6 := by bv_omega
  refine ⟨_, (step_write_reg h h0).trans (congrArg _ (State.writeReg_data _ n v h1 h2 hb)), ?frame, ?same,
    fun m hm hm3 => ?other⟩
  case frame => rw [State.writeData_eq]
  case same => exact State.readReg_writeData_same { s with events := rest } v hn
  case other => exact State.readReg_writeData_other { s with events := rest } v hm3 hm

/-! ### The STATUS word (R28) -/

/-- A flag placed at bit k of a register word. -/
theorem flagAt_getLsbD (b : Bool) {k : Nat} (hk : k < 32) (i : Nat) :
    ((BitVec.ofBool b).setWidth 32 <<< k).getLsbD i = (decide (i = k) && b) := by
  simp only [BitVec.getLsbD_shiftLeft, BitVec.getLsbD_setWidth, BitVec.getLsbD_ofBool]
  by_cases hik : i = k
  · simp [hik, hk]
  · by_cases hlt : i < k
    · simp [hik, hlt]
    · simp [hik, show i - k ≠ 0 by omega]

theorem causeAt_getLsbD (c : BitVec 4) (i : Nat) :
    (c.setWidth 32 <<< 8).getLsbD i = (decide (8 ≤ i) && c.getLsbD (i - 8)) := by
  simp only [BitVec.getLsbD_shiftLeft, BitVec.getLsbD_setWidth]
  by_cases h8 : 8 ≤ i
  · by_cases h12 : i < 12
    · simp [h8, show i < 32 by omega, show ¬ i < 8 by omega, show i - 8 < 32 by omega]
    · rw [BitVec.getLsbD_of_ge c (i - 8) (by omega)]
      simp
  · simp [h8, show i < 8 by omega]

/-- The STATUS word bit by bit. -/
theorem State.statusWord_getLsbD (s : State) (i : Nat) :
    s.statusWord.getLsbD i =
      (decide (i = 0) && s.status.busy || decide (i = 1) && s.status.done || decide (i = 2) && s.status.cfgerr ||
        decide (i = 3) && s.status.ovr || decide (i = 4) && s.topClamp || decide (i = 5) && s.botClamp ||
        decide (8 ≤ i) && s.status.cause.getLsbD (i - 8)) := by
  simp only [State.statusWord, BitVec.getLsbD_or, flagAt_getLsbD, causeAt_getLsbD, Nat.reduceLT]

theorem State.statusWord_flags (s : State) :
    s.statusWord.getLsbD 0 = s.status.busy ∧ s.statusWord.getLsbD 1 = s.status.done ∧
    s.statusWord.getLsbD 2 = s.status.cfgerr ∧ s.statusWord.getLsbD 3 = s.status.ovr ∧
    s.statusWord.getLsbD 4 = s.topClamp ∧ s.statusWord.getLsbD 5 = s.botClamp := by
  simp only [State.statusWord_getLsbD]
  simp

theorem State.statusWord_high (s : State) (i : Nat) :
    s.statusWord.getLsbD (8 + i) = s.status.cause.getLsbD i := by
  rw [State.statusWord_getLsbD, show 8 + i - 8 = i by omega]
  simp only [show ¬ 8 + i = 0 by omega, show ¬ 8 + i = 1 by omega, show ¬ 8 + i = 2 by omega,
    show ¬ 8 + i = 3 by omega, show ¬ 8 + i = 4 by omega, show ¬ 8 + i = 5 by omega, show 8 ≤ 8 + i by omega,
    decide_false, decide_true, Bool.false_and, Bool.true_and, Bool.or_false, Bool.false_or]

theorem State.statusWord_fields (s : State) :
    s.statusWord.extractLsb' 6 2 = 0#2 ∧ s.statusWord.extractLsb' 8 4 = s.status.cause ∧
    s.statusWord.extractLsb' 12 20 = 0#20 := by
  refine ⟨?low, ?cause, ?high⟩ <;> apply BitVec.eq_of_getLsbD_eq <;> intro i hi <;>
    simp only [BitVec.getLsbD_extractLsb', hi, decide_true, Bool.true_and]
  case low => rw [State.statusWord_getLsbD]; interval_cases i <;> simp
  case cause => exact s.statusWord_high i
  case high =>
    rw [show 12 + i = 8 + (4 + i) by omega, s.statusWord_high, BitVec.getLsbD_of_ge _ _ (by omega),
      BitVec.getLsbD_zero]

theorem State.readReg_status (s : State) : s.readReg 1#6 = s.statusWord := rfl

/-- The live clamp flags of a command without row kernels are 0 (R28, R184). -/
theorem State.clamps_of_no_kernel {s : State} (h : s.liveGroup = none) : s.topClamp = false ∧ s.botClamp = false := by
  simp [State.topClamp, State.botClamp, h]

theorem State.liveGroup_idle {s : State} (h : s.status.busy = false) : s.liveGroup = none := by
  unfold State.liveGroup
  split
  · simp [h]
  · rfl

theorem State.liveGroup_of_no_kernel {s : State} (h : commandKernel s.last = none) : s.liveGroup = none := by
  rw [State.liveGroup, h]

theorem State.liveGroup_running {s : State} {K : Kernel} (hK : commandKernel s.last = some K)
    (hb : s.status.busy = true) (hg : s.pos.group.toNat < groupCount K.scan s.height) :
    s.liveGroup = some (K, s.pos.group.toNat) := by
  simp [State.liveGroup, hK, hb, hg]

theorem commandKernel_nop : commandKernel 0#32 = none := rfl

/-- TOPCLAMP by the table of R184. -/
theorem Kernel.topClamp_iff (K : Kernel) (g : Nat) :
    K.topClamp g = true ↔
      match K with
      | .ptP | .ptI | .linHalfP | .linHalfI | .linXfI => False
      | .linQP | .linEI | .cubSymP | .cubSymI => g = 0
      | .cubQP | .cub8I => g ≤ 1 := by
  rw [Kernel.topClamp, decide_eq_true_eq]
  cases K
  case ptP | ptI | linHalfP | linHalfI | linXfI => simp [Kernel.up]
  case linQP | linEI | cubSymP | cubSymI | cubQP | cub8I => simp only [Kernel.up]; omega

/-- BOTCLAMP of a group of the plane by the table of R184. -/
theorem Kernel.botClamp_iff (K : Kernel) (h g : Nat) : g < groupCount K.scan h →
    (K.botClamp h g = true ↔
      match K with
      | .ptP | .ptI => False
      | .linHalfP | .linQP => g = h - 1
      | .linHalfI | .linXfI | .linEI => g = h / 2 - 1
      | .cubSymP | .cubQP => h - 2 ≤ g
      | .cubSymI | .cub8I => h / 2 - 2 ≤ g) := by
  intro hg
  rw [Kernel.botClamp, decide_eq_true_eq]
  cases K <;> simp only [Kernel.scan, groupCount] at hg
  case ptP | ptI => simp [Kernel.down, Kernel.scan, groupCount, hg]
  case linHalfP | linHalfI | linXfI | linQP | linEI | cubSymP | cubSymI | cubQP | cub8I =>
    simp only [Kernel.down, Kernel.scan, groupCount]; omega

/-- Settles O14: every bit by `State.statusWord_getLsbD`, the clamp flags by the group at POS. -/
theorem statusWordShowsFlags : Obligations.StatusWordShowsFlags := by
  unfold Obligations.StatusWordShowsFlags
  simp only [State.readReg_status]
  refine ⟨fun s => ?bits, fun s hw => ?noKernel, fun s it st sc lw ro hw hb hg => ?running⟩ <;>
    obtain ⟨h0, h1, h2, h3, h4, h5⟩ := s.statusWord_flags
  case bits =>
    obtain ⟨hlow, hcause, hhigh⟩ := s.statusWord_fields
    refine ⟨h0, h1, h2, h3, hlow, hcause, hhigh, fun hb => ?_⟩
    rw [h4, h5]
    exact State.clamps_of_no_kernel (State.liveGroup_idle hb)
  case noKernel =>
    have hnone : commandKernel s.last = none := by
      obtain ⟨lw, ro, hw⟩ | ⟨st, sc, hw⟩ | hw := hw <;> rw [hw]
      · exact commandKernel_hshiftWord
      · exact commandKernel_tapgenWord
      · exact commandKernel_nop
    rw [h4, h5]
    exact State.clamps_of_no_kernel (State.liveGroup_of_no_kernel hnone)
  case running =>
    rw [← groupCount_eq_ite, ← scan_dispatch it st sc] at hg
    have hlive := State.liveGroup_running (hw ▸ commandKernel_resampleWord) hb hg
    rw [h4, h5, State.topClamp, State.botClamp, hlive]
    exact ⟨Kernel.topClamp_iff _ _, Kernel.botClamp_iff _ _ _ hg⟩

/-! ### Reset (R320, R322) -/

theorem State.spoiled_of_none {s : State} (h : s.raced = []) : s.spoiled = [] := by
  unfold State.spoiled
  dsimp only
  split
  · exact resampleRace_of_none s _ _ h
  · split_ifs
    · exact hshiftRace_of_none s _ h
    · rfl

/-- Settles O13: the stores performed are the survivors, and what they and the race do not touch stays. -/
theorem resetAbandonsCommand : Obligations.ResetAbandonsCommand := by
  unfold Obligations.ResetAbandonsCommand
  intro s rest h
  have hkept := survivors_sublist s.free s.admitsStore s.pending
  refine ⟨_, step_reset h, rfl, rfl, rfl, rfl, rfl, rfl, rfl, rfl, rfl, rfl, ⟨_, _, hkept, rfl⟩,
    State.spoiled_of_none, fun a hcov hspoiled => ?_⟩
  refine (readByte_spoil_other s.spoiled _ _ a hspoiled).trans ?_
  exact readByte_performStores_uncovered fun st hst => hcov st (hkept.subset hst)

/-! ### The port's stores (R82) -/

theorem step_perform {s : State} {k : Nat} {rest : List Event} (h : s.events = .perform k :: rest) :
    step s = .next (State.performOne { s with events := rest } k) :=
  step_of_fetch_answer (by simp [State.fetch, h])

/-- Settles O16: the turn of the port is `State.performOne`, which writes one whole lane. -/
theorem pendingStorePerformedAlone : Obligations.PendingStorePerformedAlone := by
  unfold Obligations.PendingStorePerformedAlone
  intro s k st rest h hk hadm hm hlen
  have hone : State.performOne { s with events := rest } k =
      { s with events := rest, mem := writeLane s.mem st.addr st.data, pending := s.pending.eraseIdx k } := by
    have hadm' : State.admitsStore { s with events := rest } st = true := hadm
    simp only [State.performOne, hk, hadm', if_true]
  refine ⟨_, (step_perform h).trans (congrArg _ hone), rfl, fun i b hi => ?_, fun a ha => ?_⟩
  · exact readByte_writeLane_inside st.data s.mem st.addr i b hm hlen hi
  · exact readByte_writeLane_outside st.data s.mem st.addr a ((st.not_covers_iff a).mp ha)

/-- What a lane store leaves in a byte it covers does not depend on the memory before it. -/
theorem readByte_writeLane_covered {bs : List Byte} {m n : List Host.Cell} (a : Word) (hm : Memory.wf m = true)
    (hn : Memory.wf n = true) {b : Nat} (h : ∃ i < bs.length, (a + BitVec.ofNat 32 i).toNat = b) :
    readByte (writeLane m a bs) b = readByte (writeLane n a bs) b := by
  induction bs generalizing m n a with
  | nil => obtain ⟨i, hi, -⟩ := h; simp at hi
  | cons x bs ih =>
    by_cases htail : ∃ i < bs.length, (a + 1#32 + BitVec.ofNat 32 i).toNat = b
    · exact ih (a + 1#32) (wf_writeByte m a x hm) (wf_writeByte n a x hn) htail
    · have hout : ∀ i < bs.length, (a + 1#32 + BitVec.ofNat 32 i).toNat ≠ b := fun i hi he => htail ⟨i, hi, he⟩
      have hb : b = a.toNat := by
        obtain ⟨i, hi, rfl⟩ := h
        cases i with
        | zero => simp
        | succ i => exact absurd (congrArg BitVec.toNat (ofNat_succ_add a i)) (hout i (by simpa using hi))
      rw [writeLane, writeLane, readByte_writeLane_outside bs _ _ b hout, readByte_writeLane_outside bs _ _ b hout,
        readByte_writeByte _ _ _ _ hm, readByte_writeByte _ _ _ _ hn, if_pos hb, if_pos hb]

/-- Two stores that write no common byte commute (R82.2). -/
theorem writeLane_comm {m : List Host.Cell} {x y : LaneStore} (hm : Memory.wf m = true) (h : x.apart y) :
    writeLane (writeLane m x.addr x.data) y.addr y.data = writeLane (writeLane m y.addr y.data) x.addr x.data := by
  have hmx := wf_writeLane x.data m x.addr hm
  have hmy := wf_writeLane y.data m y.addr hm
  have outside {st : LaneStore} {b : Nat} (hc : st.covers b = false) (n : List Host.Cell) :
      readByte (writeLane n st.addr st.data) b = readByte n b :=
    readByte_writeLane_outside st.data n st.addr b ((st.not_covers_iff b).mp hc)
  refine memory_ext _ _ (wf_writeLane _ _ _ hmx) (wf_writeLane _ _ _ hmy) fun b => ?_
  cases hx : x.covers b with
  | true =>
    have hy : y.covers b = false := Bool.of_not_eq_true fun hy => h b ⟨hx, hy⟩
    rw [outside hy]
    exact readByte_writeLane_covered x.addr hm hmy ((x.covers_iff b).mp hx)
  | false =>
    rw [outside hx]
    cases hy : y.covers b with
    | true => exact readByte_writeLane_covered y.addr hmx hm ((y.covers_iff b).mp hy)
    | false => rw [outside hy, outside hy, outside hx]

theorem LaneStore.apart_symm {x y : LaneStore} (h : x.apart y) : y.apart x := fun a ha => h a ha.symm

/-- Settles O17, along the derivation of the permutation: neighbours commute. -/
theorem storeOrderDoesNotMatter : Obligations.StoreOrderDoesNotMatter := by
  unfold Obligations.StoreOrderDoesNotMatter
  intro m xs ys hm hapart hperm
  induction hperm generalizing m with
  | nil => rfl
  | cons x _ ih => exact ih _ (wf_writeLane x.data m x.addr hm) (List.pairwise_cons.mp hapart).2
  | swap x y l =>
    have hyx : y.apart x := (List.pairwise_cons.mp hapart).1 x List.mem_cons_self
    exact congrArg (performStores · l) (writeLane_comm hm hyx)
  | trans h₁ _ ih₁ ih₂ =>
    exact (ih₁ m hm hapart).trans (ih₂ m hm (hapart.perm h₁ LaneStore.apart_symm))

/-! ### The host's accesses to memory (R85, R86) -/

theorem step_store {s : State} {a : Word} {v : Byte} {rest : List Event} (h : s.events = .store a v :: rest) :
    step s = State.hostStore { s with events := rest } a v :=
  step_of_fetch_answer (by simp [State.fetch, h])

theorem step_load {s : State} {a : Word} {rest : List Event} (h : s.events = .load a :: rest) :
    step s = State.hostLoad { s with events := rest } a :=
  step_of_fetch_answer (by simp [State.fetch, h])

theorem State.planesInUse_idle {s : State} (h : s.status.busy = false) : s.planesInUse = none := by
  simp [State.planesInUse, h]

theorem State.planesInUse_nop {s : State} (h : s.last = 0#32) : s.planesInUse = none := by
  simp [State.planesInUse, h]

theorem State.planesInUse_tapgen {s : State} {st : Siting} {sc : Scan} (h : s.last = tapgenWord st sc) :
    s.planesInUse = none := by
  simp [State.planesInUse, h, tapgenWord_fields]

theorem State.planesInUse_resample {s : State} {it : IType} {st : Siting} {sc : Scan} {lw : LaneWidth} {ro : RowOrder}
    (hb : s.status.busy = true) (h : s.last = resampleWord it st sc lw ro) :
    s.planesInUse = some (s.srcView, s.dstView (2 * s.height)) := by
  obtain ⟨hop, -⟩ := resampleWord_fields it st sc lw ro
  simp [State.planesInUse, hb, h, hop]

theorem State.planesInUse_hshift {s : State} {lw : LaneWidth} {ro : RowOrder} (hb : s.status.busy = true)
    (h : s.last = hshiftWord lw ro) : s.planesInUse = some (s.srcView, s.dstView s.height) := by
  obtain ⟨hop, -⟩ := hshiftWord_fields lw ro
  simp [State.planesInUse, hb, h, hop]

section HostAccess

variable {s : State} {a : Word} {rest : List Event} {n : Option Nat}
  (hn : s.planesInUse = n.map fun k => (s.srcView, s.dstView k))

include hn

/-- A host store notes a race exactly where the byte lies in a plane in use. -/
theorem State.inUse_iff :
    s.inUse a = true ↔ ∃ k, n = some k ∧ (s.srcView.holds a.toNat || (s.dstView k).holds a.toNat) = true := by
  cases n <;> simp [State.inUse, hn]

theorem hostStore_effect {v : Byte} (h : s.events = .store a v :: rest) (hm : Memory.wf s.mem = true)
    (hmap : mappedByte s.limits a = true) :
    ∃ t, step s = .next t ∧ t = { s with events := rest, mem := t.mem, raced := t.raced } ∧
      (∀ b, readByte t.mem b = if b = a.toNat then v else readByte s.mem b) ∧
      (∀ x, x ∈ t.raced ↔ x ∈ s.raced ∨
        (x = a ∧ ∃ k, n = some k ∧ (s.srcView.holds a.toNat || (s.dstView k).holds a.toNat) = true)) := by
  obtain ⟨-, hs⟩ | ⟨hno, -⟩ := hostStore_cases { s with events := rest } a v
  · refine ⟨_, (step_store h).trans hs, rfl, fun b => readByte_writeByte s.mem a.toNat b v hm, fun x => ?_⟩
    rw [← State.inUse_iff hn]
    have huse : State.inUse { s with events := rest } a = s.inUse a := rfl
    simp only [huse]
    split_ifs with hin
    · rw [List.mem_insert_iff, and_iff_left hin, or_comm]
    · exact (or_iff_left fun h => hin h.2).symm
  · exact absurd (hmap.symm.trans hno) Bool.true_eq_false.mp

theorem hostLoad_outside (h : s.events = .load a :: rest) (hmap : mappedByte s.limits a = true)
    (hout : ∀ k, n = some k → (s.dstView k).holds a.toNat = false) :
    step s = .next { s with events := rest, hostData := (readByte s.mem a.toNat).setWidth 32 } := by
  have hplanes : State.planesInUse { s with events := rest } = n.map fun k => (s.srcView, s.dstView k) := hn
  rw [step_load h]
  cases n with
  | none => simp [State.hostLoad, hmap, hplanes]
  | some k => simp [State.hostLoad, hmap, hplanes, hout k rfl]

theorem hostLoad_inside (h : s.events = .load a :: rest) (hmap : mappedByte s.limits a = true) {k : Nat}
    (hk : n = some k) (hin : (s.dstView k).holds a.toNat = true) :
    step s = .next { s with
      events := rest, hostData := ((Config.freeWord s.free).setWidth 8).setWidth 32, free := s.free + 1 } := by
  have hplanes : State.planesInUse { s with events := rest } = n.map fun k => (s.srcView, s.dstView k) := hn
  subst hk
  rw [step_load h]
  simp [State.hostLoad, hmap, hplanes, hin]

end HostAccess

/-- Settles O15: which planes are in use in each of the states, and then the two accesses. -/
theorem hostMemoryAccesses : Obligations.HostMemoryAccesses := by
  unfold Obligations.HostMemoryAccesses
  intro dstRows
  have hplanes {s : State} {n : Option Nat} (h : dstRows s n) :
      s.planesInUse = n.map fun k => (s.srcView, s.dstView k) := by
    obtain ⟨rfl, hb | hw | ⟨st, sc, hw⟩⟩ | ⟨hb, ⟨it, st, sc, lw, ro, hw⟩, rfl⟩ | ⟨hb, ⟨lw, ro, hw⟩, rfl⟩ := h
    · exact State.planesInUse_idle hb
    · exact State.planesInUse_nop hw
    · exact State.planesInUse_tapgen hw
    · exact State.planesInUse_resample hb hw
    · exact State.planesInUse_hshift hb hw
  refine ⟨fun s n a v rest hn h hm hmap => hostStore_effect (hplanes hn) h hm hmap,
    fun s n a rest hn h hmap => ⟨hostLoad_outside (hplanes hn) h hmap,
      fun k hk hin => hostLoad_inside (hplanes hn) h hmap hk hin⟩,
    fun s a v rest hmap => ⟨fun h => ?store, fun h => ?load⟩⟩
  case store => rw [step_store h]; simp [State.hostStore, hmap]
  case load => rw [step_load h]; simp [State.hostLoad, hmap]

end Sys2Proof.Machine

/-!
PROOFS, the tap generator: the exact value of a shape pattern, the filter and its rounding, the step of TAPGEN, and the
statements on the taps.
-/

namespace Sys2Proof.Machine

/-! ### The value of a shape pattern (R130) -/

theorem getLsbD_63 (v : BitVec 64) : v.getLsbD 63 = decide (v.toNat / 2 ^ 63 = 1) := by
  have hlt : v.toNat / 2 ^ 63 < 2 := Nat.div_lt_of_lt_mul (by have := v.isLt; omega)
  rw [BitVec.getLsbD, Nat.testBit_eq_decide_div_mod_eq, Nat.mod_eq_of_lt hlt]

theorem two_zpow_sub (e k : Nat) : (2 : ℚ) ^ ((e : Int) - (k : Int)) = 2 ^ e / 2 ^ k := by
  rw [zpow_sub₀ two_ne_zero, zpow_natCast, zpow_natCast]

/-- A numerator over a power of two, by sign and magnitude. -/
theorem mkRat_signed (neg : Bool) (m k : Nat) :
    mkRat (if neg then -(m : Int) else m) (2 ^ k) = (if neg then -1 else 1) * ((m : ℚ) / 2 ^ k) := by
  cases neg
  all_goals simp [Rat.mkRat_eq_div, neg_div]

/-- The value of a pattern by sign, biased exponent and fraction. -/
theorem patternValue_eq (v : BitVec 64) :
    patternValue v =
      let sign : ℚ := if v.toNat / 2 ^ 63 = 1 then -1 else 1
      let e : Nat := v.toNat / 2 ^ 52 % 2 ^ 11
      let f : Nat := v.toNat % 2 ^ 52
      if e = 0 then sign * (2 : ℚ) ^ (-1074 : Int) * (f : ℚ)
      else sign * (2 : ℚ) ^ ((e : Int) - 1075) * (2 ^ 52 + (f : ℚ)) := by
  have hexp : (v.extractLsb' 52 11).toNat = v.toNat / 2 ^ 52 % 2 ^ 11 := by
    rw [BitVec.extractLsb'_toNat, Nat.shiftRight_eq_div_pow]
  have hfrac : (v.extractLsb' 0 52).toNat = v.toNat % 2 ^ 52 := by
    rw [BitVec.extractLsb'_toNat, Nat.shiftRight_zero]
  simp only [patternValue, hexp, hfrac, getLsbD_63]
  generalize v.toNat / 2 ^ 52 % 2 ^ 11 = e
  generalize v.toNat % 2 ^ 52 = f
  by_cases he : e = 0
  · rw [if_pos he, if_pos he, mkRat_signed, show (-1074 : Int) = ((1 : Nat) : Int) - ((1075 : Nat) : Int) from rfl,
      two_zpow_sub]
    generalize (2 : ℚ) ^ 1075 = d
    simp only [decide_eq_true_eq, Nat.cast_mul, Nat.cast_ofNat]
    ring
  · rw [if_neg he, if_neg he, mkRat_signed, show (1075 : Int) = ((1075 : Nat) : Int) from rfl, two_zpow_sub]
    generalize (2 : ℚ) ^ 1075 = d
    simp only [decide_eq_true_eq, Nat.cast_mul, Nat.cast_add, Nat.cast_pow, Nat.cast_ofNat]
    ring

/-! ### The filter and its rounding (R131 to R133) -/

/-- The filter on the offsets of the sets, in powers of the offset. -/
theorem filterValue_of_lt_two (b c : ℚ) {t : ℚ} (h0 : 0 ≤ t) (h2 : t < 2) :
    filterValue b c t =
      if t < 1 then ((12 - 9 * b - 6 * c) * t ^ 3 + (-18 + 12 * b + 6 * c) * t ^ 2 + (6 - 2 * b)) / 6
      else ((-b - 6 * c) * t ^ 3 + (6 * b + 30 * c) * t ^ 2 + (-12 * b - 48 * c) * t + (8 * b + 24 * c)) / 6 := by
  simp only [filterValue, if_neg h0.not_gt, if_pos h2]
  split
  all_goals ring

theorem tapOf_eq (q : ℚ) : tapOf q = (if q < 0 then -1 else 1) * ⌊|q| * 1024 + 1 / 2⌋ := by
  rw [tapOf]
  split
  · next h => rw [abs_of_neg h, neg_one_mul]; rfl
  · next h => rw [abs_of_nonneg (not_lt.mp h), one_mul]; rfl

/-- A tap is 1024 q to within a half. -/
theorem tapOf_near (q : ℚ) : |(tapOf q : ℚ) - 1024 * q| ≤ 1 / 2 := by
  have hle := Int.floor_le (|q| * 1024 + 1 / 2)
  have hlt := Int.lt_floor_add_one (|q| * 1024 + 1 / 2)
  rw [tapOf_eq, abs_le]
  split
  · next h =>
      rw [abs_of_neg h] at hle hlt ⊢
      push_cast
      constructor <;> linarith
  · next h =>
      rw [abs_of_nonneg (not_lt.mp h)] at hle hlt ⊢
      push_cast
      constructor <;> linarith

/-- A tap whose exact value lies between two whole multiples of 1/1024 lies between them too. -/
theorem tapOf_bounds {q : ℚ} {lo hi : Int} (hlo : (lo : ℚ) ≤ 1024 * q) (hhi : 1024 * q ≤ hi) :
    lo ≤ tapOf q ∧ tapOf q ≤ hi := by
  obtain ⟨hl, hu⟩ := abs_le.mp (tapOf_near q)
  constructor
  · have : ((lo - 1 : Int) : ℚ) < tapOf q := by push_cast; linarith
    have := Int.cast_lt.mp this
    omega
  · have : (tapOf q : ℚ) < ((hi + 1 : Int) : ℚ) := by push_cast; linarith
    have := Int.cast_lt.mp this
    omega

theorem tapOffsets_bounds (st : Siting) (sc : Scan) : ∀ d ∈ tapOffsets st sc, 0 ≤ d ∧ d < 2 := by
  cases st <;> cases sc <;> decide +kernel

/-- The entries of a set: 2, 4 or 8. -/
theorem tapOffsets_length (st : Siting) (sc : Scan) :
    (tapOffsets st sc).length = if st = .s0 ∨ st = .s3 then 2 else if sc = .progressive then 4 else 8 := by
  cases st <;> cases sc <;> rfl

/-- The offsets by siting and scan (the table of R132). -/
theorem tapOffsets_eq (st : Siting) (sc : Scan) :
    tapOffsets st sc =
      if st = .s0 ∨ st = .s3 then [1 / 2, 3 / 2]
      else if sc = .progressive then [7 / 4, 3 / 4, 1 / 4, 5 / 4]
      else if st = .s1 then [7 / 4, 3 / 4, 1 / 4, 5 / 4, 5 / 4, 1 / 4, 3 / 4, 7 / 4]
      else [15 / 8, 7 / 8, 1 / 8, 9 / 8, 11 / 8, 3 / 8, 5 / 8, 13 / 8] := by
  cases st <;> cases sc <;> rfl

theorem tapSet_length (st : Siting) (sc : Scan) (fb fc : BitVec 64) :
    (tapSet st sc fb fc).length = (tapOffsets st sc).length := List.length_map _

theorem tapOffsets_length_le (st : Siting) (sc : Scan) : (tapOffsets st sc).length ≤ 8 := by
  rw [tapOffsets_length]
  split
  · decide
  · split <;> decide

theorem all_tapFits_iff (ts : List Int) : ts.all tapFits = true ↔ ∀ x ∈ ts, -32768 ≤ x ∧ x ≤ 32767 := by
  simp [tapFits]

/-! ### The step of a TAPGEN (R134) -/

theorem coefficientsOf_length (ts : List Int) (free : Nat) : (coefficientsOf ts free).length = ts.length := by
  rw [coefficientsOf]
  split <;> simp

/-- The step of a TAPGEN with nothing pending: the registers are written and the command completes. -/
theorem tapgenStep_eq (st : Siting) (sc : Scan) {s : State} (hp : s.pending = []) :
    tapgenStep st sc s = .next { s with
      coefs := s.coefs.load 0 (coefficientsOf (tapSet st sc s.fb s.fc) s.free)
      unwritten := s.unwritten.filter fun n =>
        !(decide (16 ≤ n) && decide (n < 16 + (tapSet st sc s.fb s.fc).length))
      free := if (tapSet st sc s.fb s.fc).all tapFits then s.free else s.free + (tapSet st sc s.fb s.fc).length
      raced := []
      status := { s.status with busy := false, done := true }
      pos := { group := 0#16, col := 0#12 } } := by
  exact congrArg Host.Outcome.next (State.complete_of_none_pending hp)

theorem mem_unwritten_filter (xs : List Nat) (k n : Nat) :
    n ∈ xs.filter (fun n => !(decide (16 ≤ n) && decide (n < 16 + k))) ↔ n ∈ xs ∧ ¬ (16 ≤ n ∧ n < 16 + k) := by
  rw [List.mem_filter, Bool.not_eq_true', Bool.and_eq_false_iff, decide_eq_false_iff_not, decide_eq_false_iff_not,
    ← not_and_or]

/-- What the registers hold after the values of a set are written from C[0] on. -/
theorem Coefs.get_load_coefficientsOf (c : Coefs) {ts : List Int} (free : Nat) (hlen : ts.length ≤ 8) :
    (∀ j v, (coefficientsOf ts free)[j]? = some v → (c.load 0 (coefficientsOf ts free)).get j = v) ∧
    (∀ j, ts.length ≤ j → j < 8 → (c.load 0 (coefficientsOf ts free)).get j = c.get j) := by
  have hl := coefficientsOf_length ts free
  constructor
  · intro j v hv
    simpa using Coefs.get_load _ c j 0 v hv (by omega)
  · intro j hj h8
    exact Coefs.get_load_above _ c j 0 (by omega) h8

/-- Settles O21: the model's taps are the taps of the statement, offset by offset, and those that fit are kept whole. -/
theorem tapgenWritesTaps : Obligations.TapgenWritesTaps := by
  unfold Obligations.TapgenWritesTaps
  intro st sc s hb hp
  extract_lets val b c k tap ds
  intro hfit
  have hval (v : BitVec 64) : patternValue v = val v := patternValue_eq v
  have hds : ds = tapOffsets st sc := (tapOffsets_eq st sc).symm
  have htap {d : ℚ} (hd : d ∈ ds) : tapFunction (patternValue s.fb) (patternValue s.fc) d = tap d := by
    obtain ⟨h0, h2⟩ := tapOffsets_bounds st sc d (hds ▸ hd)
    rw [tapFunction, tapOf_eq, filterValue_of_lt_two _ _ h0 h2, hval, hval]
    rfl
  have hset : tapSet st sc s.fb s.fc = ds.map tap := by
    rw [tapSet, ← hds]
    exact List.map_congr_left fun d hd => htap hd
  have hall : (ds.map tap).all tapFits = true := (all_tapFits_iff _).mpr (by simpa using hfit)
  have hlen : (ds.map tap).length ≤ 8 := by
    rw [List.length_map, hds]
    exact tapOffsets_length_le st sc
  obtain ⟨hget, habove⟩ := Coefs.get_load_coefficientsOf s.coefs s.free hlen
  refine ⟨_, (exec_tapgenInstr_busy st sc hb).trans (tapgenStep_eq st sc hp), ?_, ?_, ?_, ?_⟩
  all_goals simp only [hset]
  · simp only [hall, if_true]
    rfl
  · intro n
    rw [mem_unwritten_filter, List.length_map]
  · intro j d hd
    obtain ⟨hlo, hhi⟩ := hfit d (List.mem_of_getElem? hd)
    have hv : (coefficientsOf (ds.map tap) s.free)[j]? = some (BitVec.ofInt 16 (tap d)) := by
      simp [coefficientsOf, hall, hd]
    rw [hget j _ hv]
    exact BitVec.toInt_ofInt_eq_self (by decide) (by omega) (by omega)
  · intro j hj h8
    exact habove j (by simpa using hj) h8

/-- Settles O22: when a tap does not fit, the values written are the free ones of the model. -/
theorem tapgenOverflowLeavesFreeValues : Obligations.TapgenOverflowLeavesFreeValues := by
  unfold Obligations.TapgenOverflowLeavesFreeValues
  intro st sc s hb hp hover
  extract_lets n
  have hall : (tapSet st sc s.fb s.fc).all tapFits = false := by
    rw [Bool.eq_false_iff, Ne, all_tapFits_iff]
    intro hfit
    obtain ⟨x, hx, hout⟩ := hover
    have := hfit x hx
    omega
  have hn : (tapSet st sc s.fb s.fc).length = n := (tapSet_length st sc s.fb s.fc).trans (tapOffsets_length st sc)
  obtain ⟨hget, habove⟩ := Coefs.get_load_coefficientsOf s.coefs (ts := tapSet st sc s.fb s.fc) s.free
    ((tapSet_length st sc s.fb s.fc).trans_le (tapOffsets_length_le st sc))
  refine ⟨_, (exec_tapgenInstr_busy st sc hb).trans (tapgenStep_eq st sc hp), ?_, ?_, ?_, ?_⟩
  · simp only [hall, hn, Bool.false_eq_true, if_false]
    rfl
  · intro k
    rw [mem_unwritten_filter, hn]
  · intro j hj
    refine hget j _ ?_
    rw [coefficientsOf, hall, if_neg Bool.false_ne_true, hn, List.getElem?_map, List.getElem?_range hj]
    rfl
  · intro j hj h8
    exact habove j (hn.trans_le hj) h8

/-! ### The taps for typical shapes (R135, R138, R217) -/

/-- Settles O23: the fixed vectors, evaluated. -/
theorem tapgenGoldenVectors : Obligations.TapgenGoldenVectors := by
  unfold Obligations.TapgenGoldenVectors
  intro sc
  cases sc <;> decide +kernel

/-- Between b and c in 0 to 1 the filter, which is linear in both, lies between its values at the corners. -/
theorem filterValue_bounds {b c : ℚ} (hb0 : 0 ≤ b) (hb1 : b ≤ 1) (hc0 : 0 ≤ c) (hc1 : c ≤ 1)
    {st : Siting} {sc : Scan} {d : ℚ} (hd : d ∈ tapOffsets st sc) :
    -150 ≤ 1024 * filterValue b c d ∧ 1024 * filterValue b c d ≤ 994 := by
  obtain ⟨h0, h2⟩ := tapOffsets_bounds st sc d hd
  rw [filterValue_of_lt_two b c h0 h2]
  have hmem : d ∈ ([1 / 2, 3 / 2, 7 / 4, 3 / 4, 1 / 4, 5 / 4, 15 / 8, 7 / 8, 1 / 8, 9 / 8, 11 / 8, 3 / 8, 5 / 8,
      13 / 8] : List ℚ) := by
    revert d
    cases st <;> cases sc <;> decide +kernel
  simp only [List.mem_cons, List.not_mem_nil, or_false] at hmem
  rcases hmem with rfl | rfl | rfl | rfl | rfl | rfl | rfl | rfl | rfl | rfl | rfl | rfl | rfl | rfl
  all_goals norm_num
  all_goals constructor <;> linarith

/-- Settles O24: each exact tap lies between whole bounds, so the rounded one does. -/
theorem tapgenTypicalRange : Obligations.TapgenTypicalRange := by
  unfold Obligations.TapgenTypicalRange
  intro st sc fb fc hb0 hb1 hc0 hc1 x hx
  obtain ⟨d, hd, rfl⟩ := List.mem_map.mp hx
  obtain ⟨hlo, hhi⟩ := filterValue_bounds hb0 hb1 hc0 hc1 hd
  exact tapOf_bounds (by exact_mod_cast hlo) (by exact_mod_cast hhi)

/-- Four taps whose exact values sum to 1 sum to 1024 within 2. -/
theorem tapOf_sum_four {p q r t : ℚ} (hsum : p + q + r + t = 1) :
    1022 ≤ tapOf p + tapOf q + tapOf r + tapOf t ∧ tapOf p + tapOf q + tapOf r + tapOf t ≤ 1026 := by
  obtain ⟨hp, hp'⟩ := abs_le.mp (tapOf_near p)
  obtain ⟨hq, hq'⟩ := abs_le.mp (tapOf_near q)
  obtain ⟨hr, hr'⟩ := abs_le.mp (tapOf_near r)
  obtain ⟨ht, ht'⟩ := abs_le.mp (tapOf_near t)
  constructor
  · have : ((1022 : Int) : ℚ) ≤ ((tapOf p + tapOf q + tapOf r + tapOf t : Int) : ℚ) := by push_cast; linarith
    exact Int.cast_le.mp this
  · have : ((tapOf p + tapOf q + tapOf r + tapOf t : Int) : ℚ) ≤ ((1026 : Int) : ℚ) := by push_cast; linarith
    exact Int.cast_le.mp this

/-- The filter at four offsets one apart sums to 1, whatever the shape. -/
theorem filterValue_sum_one (b c : ℚ) {u : ℚ} (h0 : 0 < u) (h1 : u < 1) :
    filterValue b c u + filterValue b c (1 - u) + filterValue b c (1 + u) + filterValue b c (2 - u) = 1 := by
  rw [filterValue_of_lt_two b c (by linarith) (by linarith), filterValue_of_lt_two b c (by linarith) (by linarith),
    filterValue_of_lt_two b c (by linarith) (by linarith), filterValue_of_lt_two b c (by linarith) (by linarith),
    if_pos h1, if_pos (by linarith), if_neg (by linarith), if_neg (by linarith)]
  ring

/-- Settles O25: the four offsets of an output row are u, 1 - u, 1 + u and 2 - u in some order. -/
theorem tapSetsSumNear1024 : Obligations.TapSetsSumNear1024 := by
  unfold Obligations.TapSetsSumNear1024
  intro st sc fb fc
  have row (u : ℚ) (h0 : 0 < u) (h1 : u < 1) :=
    filterValue_sum_one (patternValue fb) (patternValue fc) h0 h1
  have half := row (1 / 2) (by norm_num) (by norm_num)
  have quarter := row (1 / 4) (by norm_num) (by norm_num)
  have eighth := row (1 / 8) (by norm_num) (by norm_num)
  have threeEighths := row (3 / 8) (by norm_num) (by norm_num)
  norm_num at half quarter eighth threeEighths
  have hpair : ∀ p q : ℚ, p + p + q + q = 1 → 1022 ≤ 2 * (tapOf p + tapOf q) ∧ 2 * (tapOf p + tapOf q) ≤ 1026 := by
    intro p q h
    have := tapOf_sum_four h
    omega
  cases st <;> cases sc
  all_goals simp only [tapSet, tapOffsets, List.map_cons, List.map_nil, tapFunction]
  case s0.progressive | s0.interlaced | s3.progressive | s3.interlaced => exact hpair _ _ (by linarith)
  case s1.progressive | s2.progressive => exact tapOf_sum_four (by linarith)
  case s1.interlaced | s2.interlaced =>
    exact ⟨tapOf_sum_four (by linarith), tapOf_sum_four (by linarith)⟩

end Sys2Proof.Machine

/-!
PROOFS, the lane unit on its ports (R150 to R166): a lane on a port is the map of its elements over their places, every
operation gives such a map, and the statements on the fifteen operations.
-/

namespace Sys2Proof.Machine

/-! ### Lanes taken from a port -/

theorem bytesOf_eq_map (l : Nat) (v : BitVec 256) :
    bytesOf l v = (List.range l).map fun i => BitVec.ofNat 8 (byteAt v i) := by
  refine List.map_congr_left fun i _ => BitVec.eq_of_toNat_eq ?_
  simp [byteAt, Nat.shiftRight_eq_div_pow]

theorem halvesOf_eq_map (l : Nat) (v : BitVec 256) : halvesOf l v = (List.range (l / 2)).map (halfAt v) := by
  refine List.map_congr_left fun i _ => BitVec.eq_of_toNat_eq ?_
  simp [halfAt, Nat.shiftRight_eq_div_pow]

theorem wordsOf_eq_map (l : Nat) (v : BitVec 256) : wordsOf l v = (List.range (l / 4)).map (wordAt v) := by
  refine List.map_congr_left fun i _ => BitVec.eq_of_toNat_eq ?_
  simp [wordAt, Nat.shiftRight_eq_div_pow]

theorem byteAt_lt (v : BitVec 256) (i : Nat) : byteAt v i < 256 := Nat.mod_lt _ (by decide)

@[simp] theorem toNat_ofNat_byteAt (v : BitVec 256) (i : Nat) : (BitVec.ofNat 8 (byteAt v i)).toNat = byteAt v i :=
  (BitVec.toNat_ofNat _ _).trans (Nat.mod_eq_of_lt (byteAt_lt v i))

/-- A word element is its two half-word elements, the upper one above (R166). -/
theorem wordAt_eq_append (v : BitVec 256) (j : Nat) : wordAt v j = halfAt v (2 * j + 1) ++ halfAt v (2 * j) := by
  have hlow : 16 * (2 * j) = 32 * j := by omega
  have hhigh : v.toNat / 2 ^ (16 * (2 * j + 1)) = v.toNat / 2 ^ (32 * j) / 2 ^ 16 := by
    rw [Nat.div_div_eq_div_mul, ← Nat.pow_add]
    congr 2
    omega
  apply BitVec.eq_of_toNat_eq
  rw [wordAt, halfAt, halfAt, hlow, hhigh, BitVec.toNat_append, BitVec.toNat_ofNat, BitVec.toNat_ofNat,
    BitVec.toNat_ofNat, ← Nat.shiftLeft_add_eq_or_of_lt (Nat.mod_lt _ (by decide)), Nat.shiftLeft_eq]
  omega

/-! ### Lanes put on a port -/

/-- A lane of n elements of w bits laid out on a port fills w n bits, each element in its place. -/
theorem layOut_range {w n : Nat} (f : Nat → BitVec w) (h : w * n ≤ 256) :
    let r := BitVec.ofNat 256 (layOut w (((List.range n).map f).map BitVec.toNat))
    r.toNat < 2 ^ (w * n) ∧ ∀ k < n, r.toNat / 2 ^ (w * k) % 2 ^ w = (f k).toNat := by
  intro r
  have hsmall : ∀ x ∈ ((List.range n).map f).map BitVec.toNat, x < 2 ^ w := by
    simp only [List.mem_map]
    rintro x ⟨b, -, rfl⟩
    exact b.isLt
  have hlt := layOut_lt w _ hsmall
  simp only [List.length_map, List.length_range] at hlt
  have hr : r.toNat = layOut w (((List.range n).map f).map BitVec.toNat) :=
    (BitVec.toNat_ofNat _ _).trans (Nat.mod_eq_of_lt (hlt.trans_le (Nat.pow_le_pow_right (by decide) h)))
  refine ⟨hr ▸ hlt, fun k hk => ?_⟩
  rw [hr, layOut_element w k _ hsmall]
  simp [List.getD, hk]

theorem State.laneL_cases (s : State) : s.laneL = 16 ∨ s.laneL = 32 := laneBytes_cases _

section Results

variable {i : Instr} {s : State} {good : BitVec 256 → Prop}

theorem givesResult_bytes {f : Nat → Byte}
    (he : exec i s = .next (s.withResult (ofBytes ((List.range s.laneL).map f))))
    (hg : ∀ r, (∀ k < s.laneL, byteAt r k = (f k).toNat) → good r) : givesResult i s good := by
  have hL := s.laneL_cases
  obtain ⟨hlt, helem⟩ := layOut_range (n := s.laneL) f (by omega)
  exact ⟨_, he, hg _ helem, hlt⟩

theorem givesResult_halves {f : Nat → Half}
    (he : exec i s = .next (s.withResult (ofHalves ((List.range (s.laneL / 2)).map f))))
    (hg : ∀ r, (∀ k < s.laneL / 2, halfAt r k = f k) → good r) : givesResult i s good := by
  have hL := s.laneL_cases
  obtain ⟨hlt, helem⟩ := layOut_range (n := s.laneL / 2) f (by omega)
  rw [show 16 * (s.laneL / 2) = 8 * s.laneL by omega] at hlt
  refine ⟨_, he, hg _ fun k hk => BitVec.eq_of_toNat_eq ?_, hlt⟩
  rw [halfAt, BitVec.toNat_ofNat]
  exact helem k hk

theorem givesResult_words {f : Nat → Word}
    (he : exec i s = .next (s.withResult (ofWords ((List.range (s.laneL / 4)).map f))))
    (hg : ∀ r, (∀ k < s.laneL / 4, wordAt r k = f k) → good r) : givesResult i s good := by
  have hL := s.laneL_cases
  obtain ⟨hlt, helem⟩ := layOut_range (n := s.laneL / 4) f (by omega)
  rw [show 32 * (s.laneL / 4) = 8 * s.laneL by omega] at hlt
  refine ⟨_, he, hg _ fun k hk => BitVec.eq_of_toNat_eq ?_, hlt⟩
  rw [wordAt, BitVec.toNat_ofNat]
  exact helem k hk

end Results

/-! ### The ports of a state as maps -/

section Ports

variable (s : State) (port : LaneUnit → BitVec 256)

theorem State.portBytes_eq :
    s.portBytes port = (List.range s.laneL).map fun i => BitVec.ofNat 8 (byteAt (port s.lane) i) :=
  bytesOf_eq_map _ _

theorem State.portHalves_eq : s.portHalves port = (List.range (s.laneL / 2)).map (halfAt (port s.lane)) :=
  halvesOf_eq_map _ _

theorem State.portWords_eq : s.portWords port = (List.range (s.laneL / 4)).map (wordAt (port s.lane)) :=
  wordsOf_eq_map _ _

end Ports

/-! ### Parts of a range, pairs of places -/

section Ranges

variable {β : Type}

theorem take_map_range (f : Nat → β) {m n : Nat} (h : m ≤ n) :
    ((List.range n).map f).take m = (List.range m).map f := by
  rw [← List.map_take, List.take_range, Nat.min_eq_left h]

theorem drop_map_range (f : Nat → β) (m n : Nat) :
    ((List.range n).map f).drop m = (List.range (n - m)).map fun i => f (m + i) := by
  apply List.ext_getElem <;> simp

theorem map_range_append (f g : Nat → β) {m n : Nat} (h : n = m + m) :
    (List.range m).map f ++ (List.range m).map g =
      (List.range n).map fun i => if i < m then f i else g (i - m) := by
  subst h
  rw [List.range_add, List.map_append, List.map_map]
  congr 1
  · exact List.map_congr_left fun i hi => (if_pos (List.mem_range.mp hi)).symm
  · refine List.map_congr_left fun i _ => ?_
    simp

/-- Elements in pairs, one pair a place, are elements over twice as many places. -/
theorem flatMap_pairs_eq_map (f g : Nat → β) {m n : Nat} (h : n = 2 * m) :
    ((List.range m).flatMap fun j => [f j, g j]) =
      (List.range n).map fun i => if i % 2 = 0 then f (i / 2) else g (i / 2) := by
  rw [h, ← flatMap_pairs, List.map_flatMap]
  refine congrArg (List.flatMap · _) (funext fun j => ?_)
  have hodd : (2 * j + 1) / 2 = j := by omega
  simp [hodd]

theorem map_range_eq_flatMap (f : Nat → β) {m n : Nat} (h : n = 2 * m) :
    (List.range n).map f = (List.range m).flatMap fun j => [f (2 * j), f (2 * j + 1)] := by
  rw [flatMap_pairs_eq_map (fun j => f (2 * j)) (fun j => f (2 * j + 1)) h]
  refine List.map_congr_left fun i _ => ?_
  split_ifs
  all_goals congr 1; omega

end Ranges

/-! ### Operations that pair elements (R156, R157, R160, R164) -/

theorem interleave_map {ι : Type} (X : List ι) (p q : ι → Half) :
    interleave (X.map p) (X.map q) = X.flatMap fun j => [p j, q j] := by
  induction X with
  | nil => rfl
  | cons x X ih => simp [interleave, ih]

theorem madd_flatMap {ι : Type} (X : List ι) (x y k l : ι → Half) :
    madd (X.flatMap fun j => [x j, y j]) (X.flatMap fun j => [k j, l j]) =
      X.map fun j => maddElem (x j) (y j) (k j) (l j) := by
  induction X with
  | nil => rfl
  | cons a X ih => simp [madd, ih]

theorem bcast_eq_flatMap (l : Nat) (p0 p1 : Half) : bcast l p0 p1 = (List.range (l / 4)).flatMap fun _ => [p0, p1] := by
  rw [bcast, List.flatMap_def, List.map_const', List.length_range]

/-! ### Averages -/

/-- Settles O45: the averages give the rounded mean at each place, which fits its byte. -/
theorem laneAverages : Obligations.LaneAverages := by
  unfold Obligations.LaneAverages
  intro s
  have byte (port : LaneUnit → BitVec 256) (i : Nat) := byteAt_lt (port s.lane) i
  constructor
  case left =>
    have he : exec .avg2 s =
        .next (s.withResult (ofBytes (avg2 (s.portBytes LaneUnit.a) (s.portBytes LaneUnit.b)))) := rfl
    rw [State.portBytes_eq, State.portBytes_eq, avg2_map] at he
    refine givesResult_bytes he fun r hr i hi => ?_
    have ha := byte LaneUnit.a i
    have hb := byte LaneUnit.b i
    rw [hr i hi, toNat_ofNat_byteAt, toNat_ofNat_byteAt, BitVec.toNat_ofNat, Nat.mod_eq_of_lt (by omega)]
  case right =>
    have he : exec .avg4 s =
        .next (s.withResult (ofBytes (avg4 (s.portBytes LaneUnit.a) (s.portBytes LaneUnit.b)
          (s.portBytes LaneUnit.c) (s.portBytes LaneUnit.d)))) := rfl
    simp only [State.portBytes_eq, avg4_map, toNat_ofNat_byteAt] at he
    refine givesResult_bytes he fun r hr i hi => ?_
    have ha := byte LaneUnit.a i
    have hb := byte LaneUnit.b i
    have hc := byte LaneUnit.c i
    have hd := byte LaneUnit.d i
    rw [hr i hi, BitVec.toNat_ofNat, Nat.mod_eq_of_lt (by omega)]

/-! ### Widening and interleaving -/

theorem widenLo_port (s : State) :
    widenLo (s.portBytes LaneUnit.a) =
      (List.range (s.laneL / 2)).map fun i => (BitVec.ofNat 8 (byteAt s.lane.a i)).setWidth 16 := by
  rw [State.portBytes_eq, widenLo_map, List.length_range, List.take_range, Nat.min_eq_left (by omega)]

theorem widenHi_port (s : State) :
    widenHi (s.portBytes LaneUnit.a) =
      (List.range (s.laneL / 2)).map fun i => (BitVec.ofNat 8 (byteAt s.lane.a (s.laneL / 2 + i))).setWidth 16 := by
  have hL := s.laneL_cases
  rw [State.portBytes_eq, widenHi, List.length_map, List.length_range, drop_map_range, List.map_map,
    show s.laneL - s.laneL / 2 = s.laneL / 2 by omega]
  rfl

/-- The lower half-words of ports a and b in turn. -/
theorem ilv16Lo_port (s : State) :
    ilv16Lo (s.portHalves LaneUnit.a) (s.portHalves LaneUnit.b) =
      (List.range (s.laneL / 2)).map fun i =>
        if i % 2 = 0 then halfAt s.lane.a (i / 2) else halfAt s.lane.b (i / 2) := by
  have hL := s.laneL_cases
  rw [State.portHalves_eq, State.portHalves_eq, ilv16Lo, List.length_map, List.length_map, List.length_range,
    take_map_range _ (by omega), take_map_range _ (by omega), interleave_map,
    flatMap_pairs_eq_map (n := s.laneL / 2) _ _ (by omega)]

/-- The upper half-words of ports a and b in turn. -/
theorem ilv16Hi_port (s : State) :
    ilv16Hi (s.portHalves LaneUnit.a) (s.portHalves LaneUnit.b) =
      (List.range (s.laneL / 2)).map fun i =>
        if i % 2 = 0 then halfAt s.lane.a (s.laneL / 4 + i / 2) else halfAt s.lane.b (s.laneL / 4 + i / 2) := by
  have hL := s.laneL_cases
  rw [State.portHalves_eq, State.portHalves_eq, ilv16Hi, List.length_map, List.length_map, List.length_range,
    drop_map_range, drop_map_range, interleave_map, flatMap_pairs_eq_map (n := s.laneL / 2) _ _ (by omega),
    show s.laneL / 2 / 2 = s.laneL / 4 by omega]

theorem toNat_widened (v : BitVec 256) (i : Nat) :
    ((BitVec.ofNat 8 (byteAt v i)).setWidth 16).toNat = byteAt v i := by
  rw [BitVec.toNat_setWidth_of_le (by decide), toNat_ofNat_byteAt]

/-- Settles O46: each result as a map over its places, read at the places named. -/
theorem laneWidenAndInterleave : Obligations.LaneWidenAndInterleave := by
  unfold Obligations.LaneWidenAndInterleave
  intro s L
  have hL : L = 16 ∨ L = 32 := s.laneL_cases
  have pair (j : Nat) : 2 * j % 2 = 0 ∧ 2 * j / 2 = j ∧ (2 * j + 1) % 2 = 1 ∧ (2 * j + 1) / 2 = j := by omega
  refine ⟨?_, ?_, ?_, ?_⟩
  · have he : exec .widenLo s = .next (s.withResult (ofHalves (widenLo (s.portBytes LaneUnit.a)))) := rfl
    refine givesResult_halves (widenLo_port s ▸ he) fun r hr i hi => ?_
    rw [hr i hi, toNat_widened]
  · have he : exec .widenHi s = .next (s.withResult (ofHalves (widenHi (s.portBytes LaneUnit.a)))) := rfl
    refine givesResult_halves (widenHi_port s ▸ he) fun r hr i hi => ?_
    rw [hr i hi, toNat_widened]
  · have he : exec .ilv16Lo s =
        .next (s.withResult (ofHalves (ilv16Lo (s.portHalves LaneUnit.a) (s.portHalves LaneUnit.b)))) := rfl
    refine givesResult_halves (ilv16Lo_port s ▸ he) fun r hr j hj => ?_
    obtain ⟨h0, h0', h1, h1'⟩ := pair j
    rw [hr (2 * j) (by omega), hr (2 * j + 1) (by omega), h0, h0', h1, h1']
    exact ⟨rfl, rfl⟩
  · have he : exec .ilv16Hi s =
        .next (s.withResult (ofHalves (ilv16Hi (s.portHalves LaneUnit.a) (s.portHalves LaneUnit.b)))) := rfl
    refine givesResult_halves (ilv16Hi_port s ▸ he) fun r hr j hj => ?_
    obtain ⟨h0, h0', h1, h1'⟩ := pair j
    rw [hr (2 * j) (by omega), hr (2 * j + 1) (by omega), h0, h0', h1, h1']
    exact ⟨rfl, rfl⟩

/-! ### Add, multiply-accumulate, shift -/

theorem madd_port (s : State) :
    madd (s.portHalves LaneUnit.a) (s.portHalves LaneUnit.b) =
      (List.range (s.laneL / 4)).map fun j =>
        maddElem (halfAt s.lane.a (2 * j)) (halfAt s.lane.a (2 * j + 1)) (halfAt s.lane.b (2 * j))
          (halfAt s.lane.b (2 * j + 1)) := by
  have hL := s.laneL_cases
  rw [State.portHalves_eq, State.portHalves_eq, map_range_eq_flatMap (m := s.laneL / 4) _ (by omega),
    map_range_eq_flatMap (m := s.laneL / 4) _ (by omega), madd_flatMap]

/-- Settles O47: element by element, from the ports as maps. -/
theorem laneAddMultiplyShift : Obligations.LaneAddMultiplyShift := by
  unfold Obligations.LaneAddMultiplyShift
  intro s L
  refine ⟨?_, ?_, ?_, fun n => ?_⟩
  · have he : exec .add16 s =
        .next (s.withResult (ofHalves (add16 (s.portHalves LaneUnit.a) (s.portHalves LaneUnit.b)))) := rfl
    rw [State.portHalves_eq, State.portHalves_eq, add16, List.zipWith_map, List.zipWith_self] at he
    exact givesResult_halves he fun r hr i hi => by rw [hr i hi, BitVec.toNat_add]
  · have he : exec .add32 s =
        .next (s.withResult (ofWords (add32 (s.portWords LaneUnit.a) (s.portWords LaneUnit.b)))) := rfl
    rw [State.portWords_eq, State.portWords_eq, add32_map] at he
    exact givesResult_words he fun r hr j hj => by rw [hr j hj, BitVec.toNat_add]
  · have he : exec .madd s =
        .next (s.withResult (ofWords (madd (s.portHalves LaneUnit.a) (s.portHalves LaneUnit.b)))) := rfl
    exact givesResult_words (madd_port s ▸ he) fun r hr j hj => hr j hj
  · have he : exec (.sra32 n) s = .next (s.withResult (ofWords (sra32 (s.portWords LaneUnit.a) n))) := rfl
    rw [State.portWords_eq, sra32, List.map_map] at he
    refine givesResult_words he fun r hr j hj => ?_
    rw [hr j hj, Function.comp_apply, BitVec.toInt_sshiftRight, Int.shiftRight_eq_div_pow]
    rfl

/-! ### Saturating packs -/

theorem packs32_port (s : State) :
    packs32 (s.portWords LaneUnit.a) (s.portWords LaneUnit.b) =
      (List.range (s.laneL / 2)).map fun i =>
        if i < s.laneL / 4 then sat16 (wordAt s.lane.a i) else sat16 (wordAt s.lane.b (i - s.laneL / 4)) := by
  have hL := s.laneL_cases
  rw [State.portWords_eq, State.portWords_eq, packs32, List.map_map, List.map_map,
    map_range_append _ _ (n := s.laneL / 2) (by omega)]
  rfl

theorem packus16_port (s : State) :
    packus16 (s.portHalves LaneUnit.a) (s.portHalves LaneUnit.b) =
      (List.range s.laneL).map fun i =>
        if i < s.laneL / 2 then satu8 (halfAt s.lane.a i) else satu8 (halfAt s.lane.b (i - s.laneL / 2)) := by
  have hL := s.laneL_cases
  rw [State.portHalves_eq, State.portHalves_eq, packus16, List.map_map, List.map_map,
    map_range_append _ _ (n := s.laneL) (by omega)]
  rfl

theorem satu8_toNat (v : Half) : ((satu8 v).toNat : Int) = min (max v.toInt 0) 255 := by
  rw [satu8, clampInt, BitVec.toNat_ofInt]
  omega

/-- Settles O48: the two halves of a pack, each clamped. -/
theorem laneSaturatingPacks : Obligations.LaneSaturatingPacks := by
  unfold Obligations.LaneSaturatingPacks
  intro s L
  have hL : L = 16 ∨ L = 32 := s.laneL_cases
  constructor
  case left =>
    have he : exec .packs32 s =
        .next (s.withResult (ofHalves (packs32 (s.portWords LaneUnit.a) (s.portWords LaneUnit.b)))) := rfl
    refine givesResult_halves (packs32_port s ▸ he) fun r hr j hj => ?_
    rw [hr j (by omega), hr (L / 4 + j) (by omega), if_pos hj, if_neg (Nat.not_lt.mpr (Nat.le_add_right _ _)),
      Nat.add_sub_cancel_left, sat16_toInt, sat16_toInt]
    exact ⟨rfl, rfl⟩
  case right =>
    have he : exec .packus16 s =
        .next (s.withResult (ofBytes (packus16 (s.portHalves LaneUnit.a) (s.portHalves LaneUnit.b)))) := rfl
    refine givesResult_bytes (packus16_port s ▸ he) fun r hr i hi => ?_
    rw [hr i (by omega), hr (L / 2 + i) (by omega), if_pos hi, if_neg (Nat.not_lt.mpr (Nat.le_add_right _ _)),
      Nat.add_sub_cancel_left, satu8_toNat, satu8_toNat]
    exact ⟨rfl, rfl⟩

/-! ### Broadcast and shift-in -/

/-- Settles O49: the two scalars at even and odd places; the carry below the port shifted up. -/
theorem laneBroadcastAndShiftIn : Obligations.LaneBroadcastAndShiftIn := by
  unfold Obligations.LaneBroadcastAndShiftIn
  intro s L
  have hL : s.laneL = 16 ∨ s.laneL = 32 := s.laneL_cases
  constructor
  case left =>
    have he : exec .bcast s = .next (s.withResult (ofHalves (bcast s.laneL s.lane.p0 s.lane.p1))) := rfl
    rw [bcast_eq_flatMap, flatMap_pairs_eq_map (n := s.laneL / 2) (fun _ => s.lane.p0) (fun _ => s.lane.p1)
      (by omega)] at he
    refine givesResult_halves he fun r hr j hj => ?_
    have h0 : halfAt r (2 * j) = s.lane.p0 := by rw [hr (2 * j) (by omega), if_pos (by omega)]
    have h1 : halfAt r (2 * j + 1) = s.lane.p1 := by rw [hr (2 * j + 1) (by omega), if_neg (by omega)]
    exact ⟨h0, h1, by rw [wordAt_eq_append, h0, h1]⟩
  case right =>
    have he : exec .shiftIn s = .next (s.withResult (ofBytes (shiftIn (s.portBytes LaneUnit.a) s.lane.cy))) := rfl
    rw [State.portBytes_eq, shiftIn_map_range (by omega)] at he
    refine givesResult_bytes he fun r hr => ⟨?_, fun i hi hiL => ?_⟩
    · rw [hr 0 (by omega), if_pos rfl]
    · rw [hr i hiL, if_neg (by omega), toNat_ofNat_byteAt]

/-! ### Memory operations -/

/-- Settles O50: the branches of LDL and STL, by the alignment of the address and what the port admits. -/
theorem laneLoadAndStore : Obligations.LaneLoadAndStore := by
  unfold Obligations.LaneLoadAndStore
  intro s L
  have hldl : exec .ldl s =
      if s.lane.addr.toNat % L ≠ 0 then .refused .misalignedLane
      else if s.admits .load s.lane.addr L then .next (s.withResult (ofBytes (readLane s.mem s.lane.addr L)))
      else .next s := rfl
  have hstl : exec .stl s =
      if s.lane.addr.toNat % L ≠ 0 then .refused .misalignedLane
      else .next (s.issue [{ addr := s.lane.addr, data := s.portBytes LaneUnit.a }]) := rfl
  refine ⟨fun ha hadm => ?_, fun ha hadm => ?_, fun ha => ?_, fun ha => ?_⟩
  · rw [if_neg (not_not.mpr ha), if_pos hadm, readLane] at hldl
    exact givesResult_bytes hldl fun r hr => hr
  · rw [hldl, if_neg (not_not.mpr ha), hadm, if_neg Bool.false_ne_true]
  · rw [hstl, if_neg (not_not.mpr ha), State.portBytes_eq]
    rfl
  · exact ⟨hldl.trans (if_pos ha), hstl.trans (if_pos ha)⟩

end Sys2Proof.Machine

/-!
PROOFS, the lanes of a whole plane: the bytes of a view, the rows and columns in the order the sequencer walks them, and
what performing one store for each of them leaves in memory.
-/

namespace Sys2Proof.Machine

/-! ### Lanes and bytes of a view (R72) -/

theorem View.laneAddr_add (v : View) (l r c x : Nat) :
    v.laneAddr l r c + BitVec.ofNat 32 x = v.byteAddr r (l * c + x) := by
  rw [View.laneAddr, View.byteAddr, BitVec.add_assoc, ← BitVec.ofNat_add, Nat.mul_comm c l]

/-- A place of a lane of a column is a place of the row. -/
theorem place_lt {l w c x : Nat} (hw : w % l = 0) (hc : c < w / l) (hx : x < l) : l * c + x < w := by
  have hdiv := Nat.div_add_mod w l
  have hmul := Nat.mul_le_mul_left l (Nat.succ_le_of_lt hc)
  rw [Nat.mul_succ] at hmul
  omega

theorem State.admits_iff {s : State} {acc : Access} {a : Word} {n : Nat} :
    s.admits acc a n = true ↔ ∀ i < n, byteAllows s.limits acc (a + BitVec.ofNat 32 i) = true := by
  simp [State.admits]

/-- A lane of a view is admitted when every byte of the view is. -/
theorem View.admits_lane {v : View} (hs : v.inSpace = true) {s : State} {acc : Access}
    (hall : ∀ a : Word, v.holds a.toNat = true → byteAllows s.limits acc a = true) {l r c : Nat}
    (hw : v.width % l = 0) (hr : r < v.rows) (hc : c < v.width / l) : s.admits acc (v.laneAddr l r c) l = true := by
  rw [State.admits_iff]
  intro x hx
  rw [View.laneAddr_add]
  exact hall _ (View.holds_byteAddr hs hr (place_lt hw hc hx))

/-- Rows that are spaced and do not wrap share no byte (P4, P5). -/
theorem View.byteAddr_inj {v : View} (hs : v.inSpace = true) (hsp : v.spaced = true) {r q x y : Nat}
    (hr : r < v.rows) (hq : q < v.rows) (hx : x < v.width) (hy : y < v.width)
    (h : (v.byteAddr r x).toNat = (v.byteAddr q y).toNat) : r = q ∧ x = y := by
  have hrx := View.byteAddr_toNat hs hr hx
  have hqy := View.byteAddr_toNat hs hq hy
  have hdiff : ((r : Int) - q) * v.stride = (y : Int) - x := by
    rw [h] at hrx
    simp only [View.rowStart] at hrx hqy
    linarith
  have hlt : ((r : Int) - q).natAbs * v.stride.natAbs < v.stride.natAbs := by
    have hstride := v.spaced_iff.mp hsp
    rw [← Int.natAbs_mul, hdiff]
    omega
  have hzero : ((r : Int) - q).natAbs = 0 := by
    by_contra hne
    exact absurd hlt (Nat.not_lt.mpr (Nat.le_mul_of_pos_left _ (Nat.pos_of_ne_zero hne)))
  obtain rfl : r = q := by omega
  rw [sub_self, zero_mul] at hdiff
  omega

theorem View.ordered_spaced (v : View) (ro : RowOrder) : (v.ordered ro).spaced = v.spaced := by
  cases ro
  · rfl
  · simp [View.spaced, View.ordered, View.mirror]

/-! ### One lane of the destination -/

/-- The store of the lane of a row and a column, `F j y` being the sample for place y of row j. -/
def View.laneStore (v : View) (l : Nat) (F : Nat → Nat → Nat) (p : Nat × Nat) : LaneStore :=
  { addr := v.laneAddr l p.1 p.2
    data := (List.range l).map fun x => BitVec.ofNat 8 (F p.1 (l * p.2 + x)) }

section LaneStores

variable (v : View) (l : Nat) (F : Nat → Nat → Nat)

@[simp] theorem View.laneStore_length (p : Nat × Nat) : (v.laneStore l F p).data.length = l := by
  simp [View.laneStore]

theorem View.laneStore_covers_iff (p : Nat × Nat) (a : Nat) :
    (v.laneStore l F p).covers a = true ↔ ∃ x < l, (v.byteAddr p.1 (l * p.2 + x)).toNat = a := by
  rw [LaneStore.covers_iff, View.laneStore_length]
  simp only [View.laneStore, View.laneAddr_add]

variable {v l} (hw : v.width % l = 0)

include hw

/-- Stores for different lanes of a view write no common byte. -/
theorem View.laneStore_apart (hs : v.inSpace = true) (hsp : v.spaced = true) {p q : Nat × Nat} (hpq : p ≠ q)
    (hp : p.1 < v.rows ∧ p.2 < v.width / l) (hq : q.1 < v.rows ∧ q.2 < v.width / l) :
    (v.laneStore l F p).apart (v.laneStore l F q) := by
  rintro a ⟨hpa, hqa⟩
  obtain ⟨x, hx, rfl⟩ := (v.laneStore_covers_iff l F p a).mp hpa
  obtain ⟨y, hy, heq⟩ := (v.laneStore_covers_iff l F q _).mp hqa
  obtain ⟨hrow, hplace⟩ := View.byteAddr_inj hs hsp hp.1 hq.1 (place_lt hw hp.2 hx) (place_lt hw hq.2 hy) heq.symm
  have hcol : (l * p.2 + x) / l = (l * q.2 + y) / l := by rw [hplace]
  rw [Nat.mul_add_div (Nat.zero_lt_of_lt hx), Nat.mul_add_div (Nat.zero_lt_of_lt hx), Nat.div_eq_of_lt hx,
    Nat.div_eq_of_lt hy] at hcol
  exact hpq (Prod.ext hrow (by simpa using hcol))

theorem View.holds_of_laneStore_covers (hs : v.inSpace = true) {p : Nat × Nat}
    (hp : p.1 < v.rows ∧ p.2 < v.width / l) {a : Nat} (h : (v.laneStore l F p).covers a = true) : v.holds a = true := by
  obtain ⟨x, hx, rfl⟩ := (v.laneStore_covers_iff l F p a).mp h
  exact View.holds_byteAddr hs hp.1 (place_lt hw hp.2 hx)

end LaneStores

/-! ### The walk of the sequencer over groups and columns (R258) -/

/-- The rows and columns written by the first n steps: step i writes the rows of group i / nc in column i mod nc. -/
def walk (rows : Nat → List Nat) (nc n : Nat) : List (Nat × Nat) :=
  (List.range n).flatMap fun i => (rows (i / nc)).map fun j => (j, i % nc)

theorem walk_succ (rows : Nat → List Nat) (nc n : Nat) :
    walk rows nc (n + 1) = walk rows nc n ++ (rows (n / nc)).map fun j => (j, n % nc) := by
  rw [walk, List.range_succ, List.flatMap_append]
  simp [walk]

theorem mem_walk {rows : Nat → List Nat} {nc n : Nat} {p : Nat × Nat} :
    p ∈ walk rows nc n ↔ ∃ i < n, p.1 ∈ rows (i / nc) ∧ i % nc = p.2 := by
  obtain ⟨j, c⟩ := p
  simp [walk]

section Whole

variable {rows : Nat → List Nat} {ng nc h : Nat} (hrows : (List.range ng).flatMap rows = List.range h)

include hrows

theorem row_lt_of_mem {g j : Nat} (hg : g < ng) (hj : j ∈ rows g) : j < h := by
  rw [← List.mem_range, ← hrows, List.mem_flatMap]
  exact ⟨g, List.mem_range.mpr hg, hj⟩

theorem rows_nodup {g : Nat} (hg : g < ng) : (rows g).Nodup := by
  have hnodup : ((List.range ng).flatMap rows).Nodup := hrows ▸ List.nodup_range
  exact (List.nodup_flatMap.mp hnodup).1 g (List.mem_range.mpr hg)

/-- No row belongs to two groups. -/
theorem group_eq_of_mem {g g' j : Nat} (hg : g < ng) (hg' : g' < ng) (hj : j ∈ rows g) (hj' : j ∈ rows g') : g = g' := by
  have hnodup : ((List.range ng).flatMap rows).Nodup := hrows ▸ List.nodup_range
  obtain ⟨-, hdisj⟩ := List.nodup_flatMap.mp hnodup
  have hne : ∀ {a b : Nat}, a < b → b < ng → j ∈ rows a → j ∈ rows b → False := by
    intro a b hab hb ha' hb'
    have := List.pairwise_iff_getElem.mp hdisj a b (by simp; omega) (by simpa using hb) hab
    rw [List.getElem_range, List.getElem_range] at this
    exact this ha' hb'
  obtain hlt | heq | hgt := lt_trichotomy g g'
  · exact (hne hlt hg' hj hj').elim
  · exact heq
  · exact (hne hgt hg hj' hj).elim

theorem nodup_walk {n : Nat} (hn : n ≤ ng * nc) : (walk rows nc n).Nodup := by
  have hgroup {i : Nat} (hi : i < n) : i / nc < ng := Nat.div_lt_of_lt_mul (by rw [Nat.mul_comm]; omega)
  refine List.nodup_flatMap.mpr ⟨fun i hi => ?_, List.nodup_range.pairwise_of_forall_ne fun i hi k hk hik => ?_⟩
  · exact (rows_nodup hrows (hgroup (List.mem_range.mp hi))).map fun a b hab => (Prod.mk.injEq .. ▸ hab).1
  · rintro ⟨j, c⟩ hji hjk
    simp only [List.mem_map, Prod.mk.injEq] at hji hjk
    obtain ⟨a, ha, rfl, rfl⟩ := hji
    obtain ⟨b, hb, rfl, hmod⟩ := hjk
    have hdiv := group_eq_of_mem hrows (hgroup (List.mem_range.mp hi)) (hgroup (List.mem_range.mp hk)) ha hb
    exact hik (by rw [← Nat.div_add_mod i nc, ← Nat.div_add_mod k nc, hdiv, hmod])

/-- After as many steps as there are groups and columns, every row and column has been written. -/
theorem mem_walk_whole {p : Nat × Nat} : p ∈ walk rows nc (ng * nc) ↔ p.1 < h ∧ p.2 < nc := by
  rw [mem_walk]
  constructor
  · rintro ⟨i, hi, hj, hc⟩
    have hnc : 0 < nc := Nat.pos_of_ne_zero (by rintro rfl; simp at hi)
    exact ⟨row_lt_of_mem hrows (Nat.div_lt_of_lt_mul (by rwa [Nat.mul_comm])) hj, hc ▸ Nat.mod_lt i hnc⟩
  · rintro ⟨hj, hc⟩
    rw [← List.mem_range, ← hrows, List.mem_flatMap] at hj
    obtain ⟨g, hg, hj⟩ := hj
    have hnc : 0 < nc := Nat.zero_lt_of_lt hc
    refine ⟨nc * g + p.2, ?_, ?_, ?_⟩
    · have := Nat.mul_le_mul_left nc (Nat.succ_le_of_lt (List.mem_range.mp hg))
      rw [Nat.mul_succ] at this
      rw [Nat.mul_comm ng nc]
      omega
    · rwa [Nat.mul_add_div hnc, Nat.div_eq_of_lt hc, Nat.add_zero]
    · rw [Nat.mul_add_mod, Nat.mod_eq_of_lt hc]

end Whole

/-! ### A whole plane performed -/

section Plane

variable {v : View} {l ng : Nat} {rows : Nat → List Nat} (F : Nat → Nat → Nat) (hs : v.inSpace = true)
  (hsp : v.spaced = true) (hw : v.width % l = 0) (hl : 0 < l) (hl32 : l ≤ 2 ^ 32)
  (hrows : (List.range ng).flatMap rows = List.range v.rows)

/-- The stores of a whole plane. -/
def View.planeStores (v : View) (l : Nat) (F : Nat → Nat → Nat) (rows : Nat → List Nat) (ng : Nat) : List LaneStore :=
  (walk rows (v.width / l) (ng * (v.width / l))).map (v.laneStore l F)

include hrows in
theorem View.mem_planeStores {st : LaneStore} :
    st ∈ v.planeStores l F rows ng ↔ ∃ p : Nat × Nat, (p.1 < v.rows ∧ p.2 < v.width / l) ∧ v.laneStore l F p = st := by
  simp only [View.planeStores, List.mem_map, mem_walk_whole hrows]

include hs hsp hw hrows in
theorem View.planeStores_apart : (v.planeStores l F rows ng).Pairwise LaneStore.apart :=
  List.pairwise_map.mpr ((nodup_walk hrows le_rfl).pairwise_of_forall_ne fun _ hp _ hq hpq =>
    View.laneStore_apart F hw hs hsp hpq ((mem_walk_whole hrows).mp hp) ((mem_walk_whole hrows).mp hq))

include hs hw hrows in
/-- Nothing outside the region of the view changes. -/
theorem View.readByte_planeStores_outside {m : List Host.Cell} {a : Nat} (ha : v.holds a = false) :
    readByte (performStores m (v.planeStores l F rows ng)) a = readByte m a := by
  refine readByte_performStores_uncovered fun st hst => Bool.of_not_eq_true fun hc => ?_
  obtain ⟨p, hp, rfl⟩ := (View.mem_planeStores F hrows).mp hst
  rw [View.holds_of_laneStore_covers F hw hs hp hc] at ha
  cases ha

include hs hsp hw hl hl32 hrows in
/-- Every place of every row holds its sample. -/
theorem View.readByte_planeStores {m : List Host.Cell} (hm : Memory.wf m = true) {j y : Nat} (hj : j < v.rows)
    (hy : y < v.width) :
    readByte (performStores m (v.planeStores l F rows ng)) (v.byteAddr j y).toNat = BitVec.ofNat 8 (F j y) := by
  have hcol : y / l < v.width / l := Nat.div_lt_div_of_lt_of_dvd (Nat.dvd_of_mod_eq_zero hw) hy
  have hmem : v.laneStore l F (j, y / l) ∈ v.planeStores l F rows ng :=
    (View.mem_planeStores F hrows).mpr ⟨(j, y / l), ⟨hj, hcol⟩, rfl⟩
  have hlen : ∀ st ∈ v.planeStores l F rows ng, st.data.length ≤ 2 ^ 32 := by
    intro st hst
    obtain ⟨p, -, rfl⟩ := (View.mem_planeStores F hrows).mp hst
    rwa [View.laneStore_length]
  have helem : (v.laneStore l F (j, y / l)).data[y % l]? = some (BitVec.ofNat 8 (F j y)) := by
    simp [View.laneStore, Nat.mod_lt y hl, Nat.div_add_mod]
  have hread := readByte_performStores_covered hm (View.planeStores_apart F hs hsp hw hrows) hlen hmem helem
  simp only [View.laneStore, View.laneAddr_add, Nat.div_add_mod] at hread
  exact hread

include hs hw hrows in
theorem View.planeStores_admitted {s : State}
    (hall : ∀ a : Word, v.holds a.toNat = true → byteAllows s.limits .store a = true) :
    (v.planeStores l F rows ng).all s.admitsStore = true := by
  refine List.all_eq_true.mpr fun st hst => ?_
  obtain ⟨p, ⟨hr, hc⟩, rfl⟩ := (View.mem_planeStores F hrows).mp hst
  rw [State.admitsStore, View.laneStore_length]
  exact View.admits_lane hs hall hw hr hc

end Plane

end Sys2Proof.Machine

/-!
PROOFS, whole commands: the states a RESAMPLE and an HSHIFT pass through with no host access, and the statements on
their runs.
-/

namespace Sys2Proof.Machine

/-! ### Runs (log entry 4: with an empty queue the sequencer moves) -/

theorem run_of_step {n : Nat} {s t : State} (h : step s = .next t) :
    Host.Core.run Sys2Proof.core (n + 1) s = Host.Core.run Sys2Proof.core n t := by
  have hstep : Sys2Proof.core.step s = .next t := h
  simp [Host.Core.run, hstep]

/-- A sequence of states each of which steps to the next is run through. -/
theorem run_of_steps {f : Nat → State} {n : Nat} (k : Nat) (h : ∀ i < n, step (f i) = .next (f (i + 1))) :
    Host.Core.run Sys2Proof.core (n + k) (f 0) = Host.Core.run Sys2Proof.core k (f n) := by
  induction n generalizing f with
  | zero => rw [Nat.zero_add]
  | succ n ih =>
    rw [Nat.succ_add, run_of_step (h 0 (Nat.succ_pos n))]
    exact ih (f := fun i => f (i + 1)) fun i hi => h (i + 1) (Nat.succ_lt_succ hi)

theorem decode_resampleWord (it : IType) (st : Siting) (sc : Scan) (lw : LaneWidth) (ro : RowOrder) :
    decode (.cmd (resampleWord it st sc lw ro)) = .ok (resampleInstr it st sc lw ro) :=
  (decodeInvertsEncode _ _).mpr ⟨wellFormed_resampleInstr it st sc lw ro, encode_resampleInstr it st sc lw ro⟩

theorem decode_hshiftWord (lw : LaneWidth) (ro : RowOrder) : decode (.cmd (hshiftWord lw ro)) = .ok (.hshift lw ro) :=
  (decodeInvertsEncode _ _).mpr ⟨rfl, rfl⟩

/-! ### POS after n steps (R27, R258) -/

/-- POS after n steps of a command with nc columns. -/
def posAt (nc n : Nat) : Pos := { group := BitVec.ofNat 16 (n / nc), col := BitVec.ofNat 12 (n % nc) }

theorem posAt_col {nc : Nat} (h1 : 1 ≤ nc) (h : nc < 2 ^ 12) (n : Nat) : (posAt nc n).col.toNat = n % nc := by
  have := Nat.mod_lt n h1
  rw [posAt, BitVec.toNat_ofNat, Nat.mod_eq_of_lt (by omega)]

theorem posAt_group {nc ng n : Nat} (hng : ng < 2 ^ 16) (hn : n ≤ ng * nc) : (posAt nc n).group.toNat = n / nc := by
  have := Nat.div_le_of_le_mul (Nat.mul_comm ng nc ▸ hn)
  rw [posAt, BitVec.toNat_ofNat, Nat.mod_eq_of_lt (by omega)]

/-- A step inside a group moves one column on. -/
theorem succ_div_mod {nc n : Nat} (h : n % nc + 1 < nc) : (n + 1) / nc = n / nc ∧ (n + 1) % nc = n % nc + 1 := by
  have hsucc : n + 1 = nc * (n / nc) + (n % nc + 1) := by rw [← Nat.add_assoc, Nat.div_add_mod]
  constructor
  · rw [hsucc, Nat.mul_add_div (Nat.zero_lt_of_lt h), Nat.div_eq_of_lt h, Nat.add_zero]
  · rw [hsucc, Nat.mul_add_mod, Nat.mod_eq_of_lt h]

theorem posAt_next {nc : Nat} (h1 : 1 ≤ nc) (h : nc < 2 ^ 12) (n : Nat) : (posAt nc n).next nc = posAt nc (n + 1) := by
  have hlt := Nat.mod_lt n h1
  have hn := Nat.div_add_mod n nc
  rw [Pos.next_eq_ite, posAt_col h1 h]
  split
  · next hlast =>
      have hsucc : n + 1 = nc * (n / nc + 1) := by rw [Nat.mul_succ]; omega
      rw [posAt, posAt, hsucc, Nat.mul_div_cancel_left _ h1, Nat.mul_mod_right, BitVec.ofNat_add]
  · next hmid =>
      obtain ⟨hdiv, hmod⟩ := succ_div_mod (n := n) (nc := nc) (by omega)
      rw [posAt, posAt, hdiv, hmod, BitVec.ofNat_add]

/-! ### The planes of a started command -/

section Started

variable {s : State} {w : Word} {lw : LaneWidth} {dstRows : Nat}

/-- What P1 to P6 say of the two views, in either row order. -/
structure PlanesMet (s : State) (l k : Nat) (src dst : View) : Prop where
  lanes : s.width % l = 0
  srcRows : src.rows = s.height
  srcWidth : src.width = s.width
  dstRows : dst.rows = k
  dstWidth : dst.width = s.width
  srcInSpace : src.inSpace = true
  dstInSpace : dst.inSpace = true
  dstSpaced : dst.spaced = true
  srcHolds : ∀ a, src.holds a = s.srcView.holds a
  dstHolds : ∀ a, dst.holds a = (s.dstView k).holds a

theorem planesMet (hp : brokenPrecondition (laneBytes lw) s.srcView (s.dstView dstRows) = none) (ro : RowOrder) :
    PlanesMet s (laneBytes lw) dstRows (s.srcView.ordered ro) ((s.dstView dstRows).ordered ro) := by
  obtain ⟨⟨hle, hmod⟩, -, -, ⟨-, hspaced⟩, ⟨hsrc, hdst⟩, -⟩ := (brokenPrecondition_none _ _ _).mp hp
  have hw : 0 < s.width := (laneBytes_pos lw).trans_le hle
  exact {
    lanes := hmod
    srcRows := View.ordered_rows _ ro
    srcWidth := View.ordered_width _ ro
    dstRows := View.ordered_rows _ ro
    dstWidth := View.ordered_width _ ro
    srcInSpace := View.ordered_inSpace ro hsrc hw
    dstInSpace := View.ordered_inSpace ro hdst hw
    dstSpaced := (View.ordered_spaced _ ro).trans hspaced
    srcHolds := View.ordered_holds ro hsrc hw
    dstHolds := View.ordered_holds ro hdst hw }

/-! ### The states a command passes through -/

/-- The state after n steps of a command that issues the lanes `F` of `rows` into the view `v`, with the carry `cy n`. -/
def State.afterSteps (s : State) (v : View) (l : Nat) (F : Nat → Nat → Nat) (rows : Nat → List Nat) (cy : Nat → Byte)
    (n : Nat) : State :=
  { s with
    pending := (walk rows (s.width / l) n).map (v.laneStore l F)
    pos := posAt (s.width / l) n
    carry := cy n }

variable (hs : s.Started w (laneBytes lw) dstRows)

include hs

theorem State.Started.afterSteps_zero (v : View) (F : Nat → Nat → Nat) (rows : Nat → List Nat) (cy : Nat → Byte)
    (hcy : cy 0 = s.carry) : s.afterSteps v (laneBytes lw) F rows cy 0 = s := by
  have hpos : posAt (s.width / laneBytes lw) 0 = s.pos := by rw [hs.pos, posAt, Nat.zero_div, Nat.zero_mod]
  rw [State.afterSteps, hcy, hpos]
  simp only [walk, List.range_zero, List.flatMap_nil, List.map_nil, ← hs.pending]

theorem State.Started.step_afterSteps {i : Instr} (hd : decode (.cmd w) = .ok i) (v : View) (F : Nat → Nat → Nat)
    (rows : Nat → List Nat) (cy : Nat → Byte) (n : Nat) :
    step (s.afterSteps v (laneBytes lw) F rows cy n) = exec i (s.afterSteps v (laneBytes lw) F rows cy n) :=
  step_of_empty_queue hs.queue hs.busy (hs.last ▸ hd)

/-- In every column every source lane is admitted, so each of these states is ready. -/
theorem State.Started.ready_afterSteps (ro : RowOrder) (v : View) (F : Nat → Nat → Nat) (rows : Nat → List Nat)
    (cy : Nat → Byte) (n : Nat) : (s.afterSteps v (laneBytes lw) F rows cy n).ready lw ro dstRows = true := by
  have hm := planesMet hs.planes ro
  obtain ⟨h1, hlt⟩ := columns_bounds hs.planes
  refine State.ready_iff.mpr ⟨hs.busy, hs.planes, fun r hr => ?_⟩
  have hcol : (posAt (s.width / laneBytes lw) n).col.toNat < s.width / laneBytes lw := by
    rw [posAt_col h1 hlt]
    exact Nat.mod_lt n h1
  refine View.admits_lane (v := s.srcView.ordered ro) hm.srcInSpace (fun a ha => hs.readable a ?_) (hm.srcWidth ▸ hm.lanes)
    (hm.srcRows ▸ hr) (hm.srcWidth ▸ hcol)
  rwa [← hm.srcHolds]

/-- A step that issues the rows of its group in its column leads to the next of these states. -/
theorem State.Started.afterRows_afterSteps (ro : RowOrder) {F : Nat → Nat → Nat} {rows : Nat → List Nat} (cy : Nat → Byte)
    {n : Nat} {c : Byte} (hc : c = cy (n + 1)) (R : List (Nat × (Nat → Nat)))
    (hR : R = (rows (n / (s.width / laneBytes lw))).map fun j =>
      (j, fun x => F j (laneBytes lw * (n % (s.width / laneBytes lw)) + x))) :
    { (s.afterSteps ((s.dstView dstRows).ordered ro) (laneBytes lw) F rows cy n).afterRows lw ro dstRows R with
        carry := c } =
      s.afterSteps ((s.dstView dstRows).ordered ro) (laneBytes lw) F rows cy (n + 1) := by
  obtain ⟨h1, hlt⟩ := columns_bounds hs.planes
  have hcol := posAt_col h1 hlt n
  have hnext := posAt_next h1 hlt n
  have hstored :
      (s.afterSteps ((s.dstView dstRows).ordered ro) (laneBytes lw) F rows cy n).rowsStored lw ro dstRows R =
        ((rows (n / (s.width / laneBytes lw))).map fun j => (j, n % (s.width / laneBytes lw))).map
          (((s.dstView dstRows).ordered ro).laneStore (laneBytes lw) F) := by
    rw [hR, State.rowsStored, List.map_map, List.map_map]
    refine List.map_congr_left fun j _ => ?_
    simp only [Function.comp_apply, View.laneStore, State.afterSteps, hcol]
    rfl
  rw [State.afterRows, hstored, ← Pos.next_eq_ite, hc]
  simp only [State.afterSteps, walk_succ, List.map_append, ← hnext]
  rfl

end Started

/-! ### Completion of a walked plane -/

/-- What completion leaves after the whole walk. -/
theorem State.Started.complete_afterSteps {s : State} {w : Word} {lw : LaneWidth} {dstRows ng : Nat}
    (hs : s.Started w (laneBytes lw) dstRows) (ro : RowOrder) (F : Nat → Nat → Nat) {rows : Nat → List Nat}
    (cy : Nat → Byte) (hrows : (List.range ng).flatMap rows = List.range dstRows) :
    let v := (s.dstView dstRows).ordered ro
    let n := ng * (s.width / laneBytes lw)
    ∃ t, (s.afterSteps v (laneBytes lw) F rows cy n).complete [] = t ∧
      t = { s with mem := t.mem, carry := cy n, status := { s.status with busy := false, done := true } } ∧
      (∀ j < dstRows, ∀ y < s.width, readByte t.mem (v.sampleAddr j y) = BitVec.ofNat 8 (F j y)) ∧
      (∀ a, (s.dstView dstRows).holds a = false → readByte t.mem a = readByte s.mem a) := by
  intro v n
  have hm := planesMet hs.planes ro
  have hw : v.width % laneBytes lw = 0 := hm.dstWidth ▸ hm.lanes
  have hrows' : (List.range ng).flatMap rows = List.range v.rows := hm.dstRows ▸ hrows
  have hl32 : laneBytes lw ≤ 2 ^ 32 := by obtain hl | hl := laneBytes_cases lw <;> omega
  have hstores : (s.afterSteps v (laneBytes lw) F rows cy n).pending = v.planeStores (laneBytes lw) F rows ng := by
    rw [View.planeStores, hm.dstWidth]
    rfl
  have hadm : (s.afterSteps v (laneBytes lw) F rows cy n).pending.all
      (s.afterSteps v (laneBytes lw) F rows cy n).admitsStore = true := by
    rw [hstores]
    exact View.planeStores_admitted F hm.dstInSpace hw hrows' fun a ha => hs.writable a (hm.dstHolds _ ▸ ha)
  refine ⟨_, State.complete_of_admitted _ [] hadm, ?state, fun j hj y hy => ?stored, fun a ha => ?outside⟩
  case state =>
    simp only [State.afterSteps, hs.pending, hs.pos, hs.raced, List.length_nil, Nat.add_zero]
  case stored =>
    rw [hstores]
    exact View.readByte_planeStores F hm.dstInSpace hm.dstSpaced hw (laneBytes_pos lw) hl32 hrows' hs.memory
      (hm.dstRows.symm ▸ hj : j < v.rows) (hm.dstWidth.symm ▸ hy : y < v.width)
  case outside =>
    rw [hstores]
    exact View.readByte_planeStores_outside F hm.dstInSpace hw hrows' ((hm.dstHolds a).trans ha)

/-! ### RESAMPLE -/

theorem groupCount_lt (s : State) (sc : Scan) : groupCount sc s.height < 2 ^ 16 := by
  have hh := s.height_lt
  rw [groupCount_eq_ite]
  split <;> omega

/-- Sample y of destination row j of a RESAMPLE, from the source as it is in `s`. -/
def State.resampled (s : State) (K : Kernel) (ro : RowOrder) (j y : Nat) : Nat :=
  K.sampleOf s.height s.coefs (fun r => (readByte s.mem ((s.srcView.ordered ro).sampleAddr r y)).toNat) j

/-- The state after n steps of a RESAMPLE. -/
def State.resampling (s : State) (K : Kernel) (lw : LaneWidth) (ro : RowOrder) (n : Nat) : State :=
  s.afterSteps ((s.dstView (2 * s.height)).ordered ro) (laneBytes lw) (s.resampled K ro) K.rows (fun _ => s.carry) n

section Resample

variable {s : State} {it : IType} {st : Siting} {sc : Scan} {lw : LaneWidth} {ro : RowOrder}
  (hs : s.Started (resampleWord it st sc lw ro) (laneBytes lw) (2 * s.height))

include hs

/-- Each step issues the rows of its group in its column. -/
theorem State.Started.step_resampling {n : Nat}
    (hn : n < groupCount (dispatch it st sc).scan s.height * (s.width / laneBytes lw)) :
    step (s.resampling (dispatch it st sc) lw ro n) = .next (s.resampling (dispatch it st sc) lw ro (n + 1)) := by
  obtain ⟨h1, hlt⟩ := columns_bounds hs.planes
  have hgroup : (s.resampling (dispatch it st sc) lw ro n).pos.group.toNat = n / (s.width / laneBytes lw) :=
    posAt_group (groupCount_lt s _) hn.le
  have hcol : (s.resampling (dispatch it st sc) lw ro n).pos.col.toNat = n % (s.width / laneBytes lw) :=
    posAt_col h1 hlt n
  have hg : (s.resampling (dispatch it st sc) lw ro n).pos.group.toNat <
      groupCount (dispatch it st sc).scan s.height := by
    rw [hgroup]
    exact Nat.div_lt_of_lt_mul (Nat.mul_comm _ _ ▸ hn)
  have hready : (s.resampling (dispatch it st sc) lw ro n).ready lw ro (2 * s.height) = true :=
    hs.ready_afterSteps ro _ _ _ _ n
  refine (hs.step_afterSteps (decode_resampleWord it st sc lw ro) _ _ _ _ n).trans
    ((resample_stepsTo it st sc hready hg).trans ?_)
  refine congrArg Host.Outcome.next (hs.afterRows_afterSteps ro (fun _ => s.carry) rfl _ ?_)
  simp only [Kernel.rowSamples, State.sample, View.laneAddr_add, hgroup, hcol]
  rfl

theorem State.Started.run_resampling {n : Nat} (k : Nat)
    (hn : n ≤ groupCount (dispatch it st sc).scan s.height * (s.width / laneBytes lw)) :
    Host.Core.run Sys2Proof.core (n + k) s =
      Host.Core.run Sys2Proof.core k (s.resampling (dispatch it st sc) lw ro n) := by
  have hrun := run_of_steps (f := s.resampling (dispatch it st sc) lw ro) (n := n) k
    fun i hi => hs.step_resampling (hi.trans_le hn)
  have hzero : s.resampling (dispatch it st sc) lw ro 0 = s := hs.afterSteps_zero _ _ _ _ rfl
  rwa [hzero] at hrun

/-- After the last group the command completes with its plane in memory. -/
theorem State.Started.run_resample :
    ∃ t, Host.Core.run Sys2Proof.core
        (groupCount (dispatch it st sc).scan s.height * (s.width / laneBytes lw) + 1) s = .next t ∧
      t = { s with mem := t.mem, status := { s.status with busy := false, done := true } } ∧
      (∀ j < 2 * s.height, ∀ y < s.width,
        readByte t.mem (((s.dstView (2 * s.height)).ordered ro).sampleAddr j y) =
          BitVec.ofNat 8 (s.resampled (dispatch it st sc) ro j y)) ∧
      (∀ a, (s.dstView (2 * s.height)).holds a = false → readByte t.mem a = readByte s.mem a) := by
  obtain ⟨h1, -⟩ := columns_bounds hs.planes
  obtain ⟨-, h4⟩ := height_bounds hs.planes
  have hlast : groupCount (dispatch it st sc).scan s.height ≤
      (posAt (s.width / laneBytes lw)
        (groupCount (dispatch it st sc).scan s.height * (s.width / laneBytes lw))).group.toNat := by
    rw [posAt_group (groupCount_lt s _) le_rfl, Nat.mul_div_cancel _ h1]
  obtain ⟨t, hcomplete, heffect⟩ := hs.complete_afterSteps ro (s.resampled (dispatch it st sc) ro) (fun _ => s.carry)
    (flatMap_rows (dispatch it st sc) h4)
  refine ⟨t, (hs.run_resampling 1 le_rfl).trans (run_of_step ?_), heffect⟩
  refine (hs.step_afterSteps (decode_resampleWord it st sc lw ro) _ _ _ _ _).trans ?_
  refine (exec_resampleInstr_busy (s := s.resampling _ lw ro _) it st sc lw ro hs.busy).trans
    ((resampleStep_completes (s := s.resampling _ lw ro _) hs.planes hlast).trans ?_)
  rw [resampleRace_of_none (s.resampling _ lw ro _) _ _ hs.raced, ← hcomplete]
  rfl

end Resample

/-- Settles O58: the states passed through, and the last step. -/
theorem resampleProgress : Obligations.ResampleProgress := by
  unfold Obligations.ResampleProgress
  intro it st sc lw ro s hs NG NC
  have hNG : NG = groupCount (dispatch it st sc).scan s.height := by
    rw [scan_dispatch, groupCount_eq_ite]
  obtain ⟨h1, hlt⟩ := columns_bounds hs.planes
  have hng : NG < 2 ^ 16 := hNG ▸ groupCount_lt s _
  constructor
  · intro n hn
    exact ⟨_, hs.run_resampling 0 (hNG ▸ hn), rfl, posAt_group hng hn, posAt_col h1 hlt n⟩
  · obtain ⟨t, hrun, ht, -⟩ := hs.run_resample
    exact ⟨t, hNG ▸ hrun, ht⟩

theorem tapSum_le (q0 q1 q2 q3 : Half) (a b c d : Nat) : tapSum q0 q1 q2 q3 a b c d ≤ 255 := by
  rw [tapSum, clampByte]
  omega

/-- What a kernel makes of samples is a sample. -/
theorem sampleOf_le (K : Kernel) (h : Nat) (C : Coefs) {P : Nat → Nat} (hP : ∀ r, P r ≤ 255) (j : Nat) :
    K.sampleOf h C P j ≤ 255 := by
  have avg (a b : Nat) : (P a + P b + 1) / 2 ≤ 255 := by have := hP a; have := hP b; omega
  have three (a b : Nat) : (3 * P a + P b + 2) / 4 ≤ 255 := by have := hP a; have := hP b; omega
  have blend (w0 w1 sh a b : Nat) (hw : w0 + w1 = 2 ^ sh) (hsh : 0 < sh) : blendOf w0 w1 sh (P a) (P b) ≤ 255 :=
    blendOf_le hsh hw (hP a) (hP b)
  cases K <;> simp only [Kernel.sampleOf]
  case ptP | ptI => exact hP _
  case linHalfP | linHalfI | linXfI | linQP | linEI | cubSymP | cubSymI | cubQP | cub8I =>
    split_ifs <;> simp [hP, avg, three, blend, tapSum_le]

/-- Settles O59: the bytes stored are the kernel's samples, which fit them. -/
theorem wholePlaneResample : Obligations.WholePlaneResample := by
  unfold Obligations.WholePlaneResample
  intro it st sc lw ro s hs NG NC src dst
  have hNG : NG = groupCount (dispatch it st sc).scan s.height := by
    rw [scan_dispatch, groupCount_eq_ite]
  obtain ⟨t, hrun, ht, hsamples, houtside⟩ := hs.run_resample
  refine ⟨t, hNG ▸ hrun, ht, fun j hj x hx => ?_, houtside⟩
  have hle : s.resampled (dispatch it st sc) ro j x ≤ 255 :=
    sampleOf_le _ _ _ (fun r => Nat.le_of_lt_succ (BitVec.isLt _)) j
  rw [hsamples j hj x hx, BitVec.toNat_ofNat, Nat.mod_eq_of_lt (by omega)]
  rfl

/-! ### HSHIFT -/

/-- Sample y of row r of the source as it is in `s`, filtered. -/
def State.shifted (s : State) (ro : RowOrder) (r y : Nat) : Nat :=
  hshiftSample (fun x => (readByte s.mem ((s.srcView.ordered ro).sampleAddr r x)).toNat) y

/-- CARRY after n steps of an HSHIFT: the last sample of the lane of the last step. -/
def State.carryAt (s : State) (lw : LaneWidth) (ro : RowOrder) : Nat → Byte
  | 0 => s.carry
  | n + 1 =>
    readByte s.mem ((s.srcView.ordered ro).sampleAddr (n / (s.width / laneBytes lw))
      (laneBytes lw * (n % (s.width / laneBytes lw)) + (laneBytes lw - 1)))

/-- In every column but the first CARRY is the sample left of the lane (R283). -/
theorem State.carryAt_left (s : State) (lw : LaneWidth) (ro : RowOrder) {n : Nat} (hn : n % (s.width / laneBytes lw) ≠ 0)
    (h1 : 1 ≤ s.width / laneBytes lw) :
    s.carryAt lw ro n = readByte s.mem ((s.srcView.ordered ro).sampleAddr (n / (s.width / laneBytes lw))
      (laneBytes lw * (n % (s.width / laneBytes lw)) - 1)) := by
  obtain ⟨m, rfl⟩ := Nat.exists_eq_succ_of_ne_zero (n := n) (by rintro rfl; simp at hn)
  have hl := laneBytes_pos lw
  rw [State.carryAt]
  generalize s.width / laneBytes lw = nc at hn h1 ⊢
  have hmid : m % nc + 1 < nc := by
    have hlt := Nat.mod_lt m h1
    by_contra hge
    have hm := Nat.div_add_mod m nc
    have hsucc : m + 1 = nc * (m / nc + 1) := by rw [Nat.mul_succ]; omega
    exact hn (by rw [Nat.succ_eq_add_one, hsucc, Nat.mul_mod_right])
  obtain ⟨hdiv, hmod⟩ := succ_div_mod hmid
  rw [hdiv, hmod, Nat.mul_succ, Nat.add_sub_assoc hl]

/-- The state after n steps of an HSHIFT. -/
def State.shifting (s : State) (lw : LaneWidth) (ro : RowOrder) (n : Nat) : State :=
  s.afterSteps ((s.dstView s.height).ordered ro) (laneBytes lw) (s.shifted ro) (fun g => [g]) (s.carryAt lw ro) n

/-- A filtered sample, by its place in its lane: the left neighbour of place 0 is the sample before the lane. -/
theorem State.shifted_place (s : State) (ro : RowOrder) (r m x : Nat) (S : Nat → Nat)
    (hS : ∀ y, S y = (readByte s.mem ((s.srcView.ordered ro).sampleAddr r (m + y))).toNat) (left : Nat)
    (hleft : left = (readByte s.mem ((s.srcView.ordered ro).sampleAddr r (m - 1))).toNat) :
    (3 * S x + (if x = 0 then left else S (x - 1)) + 2) / 4 = s.shifted ro r (m + x) := by
  rw [State.shifted, hshiftSample, hS, hS]
  split
  · next hx => rw [hx, hleft]; rfl
  · next hx => rw [Nat.add_sub_assoc (Nat.one_le_iff_ne_zero.mpr hx)]

section Hshift

variable {s : State} {lw : LaneWidth} {ro : RowOrder} (hs : s.Started (hshiftWord lw ro) (laneBytes lw) s.height)

include hs

/-- Each step filters the lane of its row in its column. -/
theorem State.Started.step_shifting {n : Nat} (hn : n < s.height * (s.width / laneBytes lw)) :
    step (s.shifting lw ro n) = .next (s.shifting lw ro (n + 1)) := by
  obtain ⟨h1, hlt⟩ := columns_bounds hs.planes
  have hgroup : (s.shifting lw ro n).pos.group.toNat = n / (s.width / laneBytes lw) :=
    posAt_group s.height_lt hn.le
  have hcol : (s.shifting lw ro n).pos.col.toNat = n % (s.width / laneBytes lw) := posAt_col h1 hlt n
  have hg : (s.shifting lw ro n).pos.group.toNat < s.height := by
    rw [hgroup]
    exact Nat.div_lt_of_lt_mul (Nat.mul_comm _ _ ▸ hn)
  have hready : (s.shifting lw ro n).ready lw ro s.height = true := hs.ready_afterSteps ro _ _ _ _ n
  have hS (y : Nat) : (s.shifting lw ro n).sample lw ro (s.shifting lw ro n).pos.group.toNat y =
      (readByte s.mem ((s.srcView.ordered ro).sampleAddr (n / (s.width / laneBytes lw))
        (laneBytes lw * (n % (s.width / laneBytes lw)) + y))).toNat := by
    rw [State.sample, View.laneAddr_add, hgroup, hcol]
    rfl
  refine (hs.step_afterSteps (decode_hshiftWord lw ro) _ _ _ _ n).trans
    ((hshiftStepFilters _ lw ro hready hg).trans ?_)
  refine congrArg Host.Outcome.next (hs.afterRows_afterSteps ro (s.carryAt lw ro) ?_ _ ?_)
  · rw [hS, BitVec.ofNat_toNat, BitVec.setWidth_eq]
    rfl
  · rw [List.map_singleton]
    refine congrArg List.singleton (Prod.ext hgroup (funext fun x => State.shifted_place s ro _ _ x _ hS _ ?_))
    split
    · next hc =>
        have hzero : n % (s.width / laneBytes lw) = 0 := by rw [← hcol, hc]; rfl
        rw [hS, hzero]
        rfl
    · next hc =>
        have hne : n % (s.width / laneBytes lw) ≠ 0 := fun h0 => hc (BitVec.eq_of_toNat_eq (hcol.trans h0))
        exact congrArg BitVec.toNat (s.carryAt_left lw ro hne h1)

/-- After the last row the command completes with its plane in memory. -/
theorem State.Started.run_hshift :
    ∃ t, Host.Core.run Sys2Proof.core (s.height * (s.width / laneBytes lw) + 1) s = .next t ∧
      t = { s with
        mem := t.mem
        carry := s.carryAt lw ro (s.height * (s.width / laneBytes lw))
        status := { s.status with busy := false, done := true } } ∧
      (∀ r < s.height, ∀ y < s.width,
        readByte t.mem (((s.dstView s.height).ordered ro).sampleAddr r y) = BitVec.ofNat 8 (s.shifted ro r y)) ∧
      (∀ a, (s.dstView s.height).holds a = false → readByte t.mem a = readByte s.mem a) := by
  obtain ⟨h1, -⟩ := columns_bounds hs.planes
  have hlast : s.height ≤
      (posAt (s.width / laneBytes lw) (s.height * (s.width / laneBytes lw))).group.toNat := by
    rw [posAt_group s.height_lt le_rfl, Nat.mul_div_cancel _ h1]
  have hzero : s.shifting lw ro 0 = s := hs.afterSteps_zero _ _ _ _ rfl
  have hrun := run_of_steps (f := s.shifting lw ro) 1 fun i hi => hs.step_shifting hi
  rw [hzero] at hrun
  obtain ⟨t, hcomplete, heffect⟩ := hs.complete_afterSteps ro (s.shifted ro) (s.carryAt lw ro)
    (List.flatMap_singleton' (List.range s.height))
  refine ⟨t, hrun.trans (run_of_step ?_), heffect⟩
  refine (hs.step_afterSteps (decode_hshiftWord lw ro) _ _ _ _ _).trans ?_
  refine (exec_hshift_busy (s := s.shifting lw ro _) lw ro hs.busy).trans
    ((hshiftStep_completes (s := s.shifting lw ro _) hs.planes hlast).trans ?_)
  rw [hshiftRace_of_none (s.shifting lw ro _) _ hs.raced, ← hcomplete]
  rfl

end Hshift

/-- Settles O60: the filtered samples fit their bytes. -/
theorem wholePlaneHshift : Obligations.WholePlaneHshift := by
  unfold Obligations.WholePlaneHshift
  intro lw ro s hs NC src dst
  obtain ⟨t, hrun, ht, hsamples, houtside⟩ := hs.run_hshift
  refine ⟨t, hrun, ?_, fun r hr x hx => ?_, houtside⟩
  · have hcarry : t.carry = s.carryAt lw ro (s.height * (s.width / laneBytes lw)) := by rw [ht]
    rw [hcarry]
    exact ht
  · have hle : s.shifted ro r x ≤ 255 := by
      have hsample (y : Nat) : (readByte s.mem ((s.srcView.ordered ro).sampleAddr r y)).toNat ≤ 255 :=
        Nat.le_of_lt_succ (BitVec.isLt _)
      have hcur := hsample x
      have hleft := hsample (x - 1)
      simp only [State.shifted, hshiftSample]
      omega
    rw [hsamples r hr x hx, BitVec.toNat_ofNat, Nat.mod_eq_of_lt (by omega)]
    rfl

end Sys2Proof.Machine
